-- ==== Sys2Proof/Word.lean ====
section
/-! DEFINITION. The two word types of the engine: a byte and a chip register address. -/

namespace Sys2Proof

/-- `BYTE`: an 8-bit unsigned value (00_scope.md R8, R9). -/
abbrev Byte := BitVec 8

/-- A chip register address, `REG_ADDR_BITS` = 6 (00_scope.md R8, 20_memory.md R60). -/
abbrev RegAddr := BitVec 6

end Sys2Proof
end

