-- ==== Sys2Proof/Config.lean ====
section
/-! DEFINITION. What an implementation fixes, and the free value of the model. The named parameters of 00_scope.md R8
that the spec has a model take as an argument are the structure `Params`; every decoder, encoder and operation takes
them, and `State` holds the machine's. Their default values stand in Machine/Params.lean, where a later repair may mend
one. -/

namespace Sys2Proof

/-- The parameter `REG_ADDR`: a 6-bit address for each register of 10_state.md R30 (20_memory.md R77). -/
structure RegMap where
  command : RegAddr
  comIEn : RegAddr
  divIEn : RegAddr
  comIrq : RegAddr
  divIrq : RegAddr
  error : RegAddr
  status1 : RegAddr
  status2 : RegAddr
  fifoData : RegAddr
  fifoLevel : RegAddr
  waterLevel : RegAddr
  control : RegAddr
  bitFraming : RegAddr
  coll : RegAddr
  mode : RegAddr
  txMode : RegAddr
  rxMode : RegAddr
  txControl : RegAddr
  txAuto : RegAddr
  crcResultH : RegAddr
  crcResultL : RegAddr
  tMode : RegAddr
  tPrescaler : RegAddr
  tReloadH : RegAddr
  tReloadL : RegAddr
  deriving DecidableEq, Repr

/-- The parameter `MASKS`: the masks of 10_state.md R31 marked *gk*. Those the document gives are fixed. -/
structure MaskSet where
  irqEnXcv : Byte
  irqEnAuth : Byte
  comIrqClr : Byte
  divIrqCrc : Byte
  flush : Byte
  startSend : Byte
  xcvExit : Byte
  authExit : Byte
  timerIrq : Byte
  rxInd : Byte
  err : Byte
  crypto1On : Byte
  fifoLevel : Byte
  deriving DecidableEq, Repr

/-- The parameter `PCD_CMD`: the chip command codes of 30_encoding.md R92. -/
structure ChipCodes where
  idle : Byte
  calcCrc : Byte
  transmit : Byte
  receive : Byte
  transceive : Byte
  mfAuthent : Byte
  softReset : Byte
  deriving DecidableEq, Repr

/-- The parameter `PICC_CMD`: the card command bytes of 30_encoding.md R94. SELECT's second byte, 0x70, is the
document's (`SELECT_NVB`) and so is fixed. -/
structure CardBytes where
  reqidl : Byte
  reqall : Byte
  /-- Both bytes of the anticollision header. -/
  anticoll : Byte × Byte
  /-- The first byte of the SELECT header. -/
  select : Byte
  auth1a : Byte
  auth1b : Byte
  read : Byte
  write : Byte
  decrement : Byte
  increment : Byte
  restore : Byte
  transfer : Byte
  /-- Both bytes of the halt header. -/
  halt : Byte × Byte
  deriving DecidableEq, Repr

/-- The parameters of 00_scope.md R8 marked *gk*: "the model takes it as an argument, with the given value as its
default". -/
structure Params where
  /-- `REG_ADDR`. -/
  reg : RegMap
  /-- `MASKS`. -/
  mask : MaskSet
  /-- `PCD_CMD`. -/
  cmd : ChipCodes
  /-- `PICC_CMD`. -/
  picc : CardBytes
  /-- `INIT_SEQUENCE`, `OPEN` (43_protocol.md R225): register and value, in order. -/
  initSequence : List (RegAddr × Byte)
  /-- `DUMMY_TX`, the byte clocked out during a read (30_encoding.md R84). -/
  dummyTx : Byte
  /-- `FULL_FRAME` (30_encoding.md R97). -/
  fullFrame : Byte
  /-- `MAX_FRAME`, the chip FIFO size (41_crc_engine.md R145). -/
  maxFrame : Nat
  deriving DecidableEq, Repr

/-- The chip's answer to a bus read for which `Bus.answers` holds nothing: a draw under no law
(00_scope.md R6; 92_eei_decisions.md D31, OPEN). `n` counts the answers already drawn from here. Log entry 2. -/
opaque Config.chipAnswer (n : Nat) : Byte

end Sys2Proof
end

