-- ==== Sys2Proof/Machine/Params.lean ====
section
/-! DEFINITION. The values of 00_scope.md R8: the counts, lengths and masks that the document settles, and the default of
every parameter the model takes as an argument (*gk*: from general knowledge; 93_implementation_defined.md part 2; log
entry 1). -/

namespace Sys2Proof.Machine

/-! ### Fixed by the document (R8, R31) -/

/-- `CRC_POLL_BUDGET` (doc §4.2). -/
def crcPollBudget : Nat := 255
/-- `XCV_POLL_BUDGET` (doc §4.3). -/
def xcvPollBudget : Nat := 2000
/-- `MAX_RX_BITS` (doc §4.3). -/
def maxRxBits : Nat := 128
/-- `KEY_LEN` (doc §3). -/
def keyLen : Nat := 6
/-- `BLOCK_LEN` (doc §3). -/
def blockLen : Nat := 16
/-- The identifier part of `UID_LEN` (doc §3). -/
def uidIdLen : Nat := 4
/-- `UID_LEN`: the identifier and its checksum byte (doc §3). -/
def uidLen : Nat := 5
/-- `ATQA_BITS` (doc §4.4). -/
def atqaBits : Nat := 16
/-- `SAK_BITS` (doc §4.4). -/
def sakBits : Nat := 24
/-- `ACK_BITS` (doc §4.4). -/
def ackBits : Nat := 4
/-- `ACK_CODE` (doc §4.4, §8). -/
def ackCode : Byte := 0x0A
/-- The low nibble that `ACK_CODE` is compared with (43_protocol.md R213). -/
def ackMask : Byte := 0x0F
/-- `SHORT_FRAME` (doc §4.4). -/
def shortFrame : Byte := 0x07
/-- `SELECT_NVB`, the second byte of SELECT's header (doc §4.4). -/
def selectNvb : Byte := 0x70
/-- SELECT's failure value, "a sentinel "no card" value (0)" (43_protocol.md R200). -/
def noCardSak : Byte := 0x00

namespace Mask
/-- `ANTENNA_MASK` (doc §4.1). -/
def antenna : Byte := 0x03
/-- `RX_LAST_BITS_MASK` (doc §4.3). -/
def rxLastBits : Byte := 0x07
/-- `READ_BIT` (doc §6). -/
def read : Byte := 0x80
/-- `ADDR_MASK` (doc §6). -/
def addr : Byte := 0x7E
end Mask

end Sys2Proof.Machine

namespace Sys2Proof

/-! ### Defaults of the parameters (gk) -/

/-- `REG_ADDR` (10_state.md R30). -/
def RegMap.default : RegMap where
  command := 0x01
  comIEn := 0x02
  divIEn := 0x03
  comIrq := 0x04
  divIrq := 0x05
  error := 0x06
  status1 := 0x07
  status2 := 0x08
  fifoData := 0x09
  fifoLevel := 0x0A
  waterLevel := 0x0B
  control := 0x0C
  bitFraming := 0x0D
  coll := 0x0E
  mode := 0x11
  txMode := 0x12
  rxMode := 0x13
  txControl := 0x14
  txAuto := 0x15
  crcResultH := 0x21
  crcResultL := 0x22
  tMode := 0x2A
  tPrescaler := 0x2B
  tReloadH := 0x2C
  tReloadL := 0x2D

/-- `MASKS` (10_state.md R31). -/
def MaskSet.default : MaskSet where
  irqEnXcv := 0xF7
  irqEnAuth := 0x92
  comIrqClr := 0x80
  divIrqCrc := 0x04
  flush := 0x80
  startSend := 0x80
  xcvExit := 0x31
  authExit := 0x11
  timerIrq := 0x01
  rxInd := 0x30
  err := 0x1B
  crypto1On := 0x08
  fifoLevel := 0x7F

/-- `PCD_CMD` (30_encoding.md R92). -/
def ChipCodes.default : ChipCodes where
  idle := 0x00
  calcCrc := 0x03
  transmit := 0x04
  receive := 0x08
  transceive := 0x0C
  mfAuthent := 0x0E
  softReset := 0x0F

/-- `PICC_CMD` (30_encoding.md R94). -/
def CardBytes.default : CardBytes where
  reqidl := 0x26
  reqall := 0x52
  anticoll := (0x93, 0x20)
  select := 0x93
  auth1a := 0x60
  auth1b := 0x61
  read := 0x30
  write := 0xA0
  decrement := 0xC0
  increment := 0xC1
  restore := 0xC2
  transfer := 0xB0
  halt := (0x50, 0x00)

/-- `INIT_SEQUENCE` (43_protocol.md R225), the registers under any map; log entry 4. -/
def RegMap.initSequence (r : RegMap) : List (RegAddr × Byte) :=
  [(r.tMode, 0x8D), (r.tPrescaler, 0x3E), (r.tReloadL, 0x1E), (r.tReloadH, 0x00), (r.txAuto, 0x40), (r.mode, 0x3D)]

/-- The default of every parameter. -/
def Params.default : Params where
  reg := .default
  mask := .default
  cmd := .default
  picc := .default
  initSequence := RegMap.default.initSequence
  dummyTx := 0x00
  fullFrame := 0x00
  maxFrame := 64

/-! ### What the parameters list -/

/-- Every register address, in R30's order. -/
def RegMap.addresses (r : RegMap) : List RegAddr :=
  [r.command, r.comIEn, r.divIEn, r.comIrq, r.divIrq, r.error, r.status1, r.status2, r.fifoData, r.fifoLevel] ++
  [r.waterLevel, r.control, r.bitFraming, r.coll, r.mode, r.txMode, r.rxMode, r.txControl, r.txAuto] ++
  [r.crcResultH, r.crcResultL, r.tMode, r.tPrescaler, r.tReloadH, r.tReloadL]

/-- Every chip command code; the other codes are reserved (30_encoding.md R93). -/
def ChipCodes.codes (c : ChipCodes) : List Byte :=
  [c.idle, c.calcCrc, c.transmit, c.receive, c.transceive, c.mfAuthent, c.softReset]

/-- The card commands of one byte. -/
def CardBytes.oneByte (c : CardBytes) : List Byte :=
  [c.reqidl, c.reqall, c.auth1a, c.auth1b, c.read, c.write, c.decrement, c.increment, c.restore, c.transfer]

/-- The headers of two bytes. -/
def CardBytes.twoByte (c : CardBytes) : List (Byte × Byte) := [c.anticoll, (c.select, Machine.selectNvb), c.halt]

/-- Each name of a table has a value of its own, and no one-byte card command begins a two-byte header: what the tables
of R30, R92 and R94 take for granted. -/
def Params.legal (P : Params) : Bool :=
  P.reg.addresses.Nodup && P.cmd.codes.Nodup && P.picc.oneByte.Nodup && P.picc.twoByte.Nodup &&
    P.picc.twoByte.all fun h => !P.picc.oneByte.contains h.1

end Sys2Proof
end

