-- ==== Sys2Proof/Syntax.lean ====
section
/-! DEFINITION. Every row of spec/opcode_table.json as a constructor of `Instr`, and the four encoding spaces the
rows belong to (30_encoding.md R80). -/

namespace Sys2Proof

/-- The encoding space a byte string belongs to (30_encoding.md R80: host operations, bus transactions, chip command
codes, card frames). One byte value means different things in different spaces, so the space is part of what is
presented. Log entry 3. -/
inductive Port where
  /-- Host operations, `HOST` rows (R86, R87): what the host presents to the engine. -/
  | host
  /-- Two-byte register transactions, `BUS` rows (R81 to R84): what the engine sends on the bus. -/
  | bus
  /-- Chip command codes, `PCDCMD` rows (R92): a byte written to the chip's `Command` register. -/
  | chipCommand
  /-- Card frames, `PICCCMD` rows (R94, R95): bytes loaded into the chip FIFO, the command byte first. -/
  | cardFrame
  deriving DecidableEq, Repr

/-- One constructor per row of spec/opcode_table.json. Sequence operands have any length in this abstract form
(30_encoding.md R88); the lengths the binary form carries are checked by `Instr.wellFormed`. -/
inductive Instr where
  -- Host operations, 30_encoding.md R87
  /-- `WREG a, v` (R120). -/
  | wreg (a v : Byte)
  /-- `RREG a` (R121). -/
  | rreg (a : Byte)
  /-- `SETBITS a, m` (R123). -/
  | setbits (a m : Byte)
  /-- `CLRBITS a, m` (R124). -/
  | clrbits (a m : Byte)
  /-- `ANTON` (R125). -/
  | anton
  /-- `ANTOFF` (R126). -/
  | antoff
  /-- `CRC d` (R141). -/
  | crc (d : List Byte)
  /-- `TRANSCEIVE d` (R162). -/
  | transceive (d : List Byte)
  /-- `REQUEST mode` (R190). -/
  | request (mode : Byte)
  /-- `ANTICOLL` (R195). -/
  | anticoll
  /-- `SELECT u`, `u` = id0..id3, bcc (R200). -/
  | select (u : List Byte)
  /-- `AUTH mode, blk, key, uid` (R205). -/
  | auth (mode blk : Byte) (key uid : List Byte)
  /-- `STOPCRYPTO` (R208). -/
  | stopcrypto
  /-- `READ blk` (R210). -/
  | read (blk : Byte)
  /-- `WRITE blk, d` (R212). -/
  | write (blk : Byte) (d : List Byte)
  /-- `HALT` (R218). -/
  | halt
  /-- `READUID` (R222). -/
  | readuid
  /-- `INIT` (R225). -/
  | init
  -- Bus transactions, 30_encoding.md R83, R84
  /-- `W(a, v)` (R83). -/
  | busW (a : RegAddr) (v : Byte)
  /-- `R(a, _)` (R84); the value read is the chip's answer, no operand. -/
  | busR (a : RegAddr)
  -- Chip command codes, 30_encoding.md R92
  /-- `Idle`. -/
  | pcdIdle
  /-- `CalcCRC`. -/
  | pcdCalcCRC
  /-- `Transmit`. -/
  | pcdTransmit
  /-- `Receive`. -/
  | pcdReceive
  /-- `Transceive`. -/
  | pcdTransceive
  /-- `MFAuthent`. -/
  | pcdMFAuthent
  /-- `SoftReset`. -/
  | pcdSoftReset
  -- Card command bytes with the rest of their frame, 30_encoding.md R94, R95
  /-- `REQIDL`. -/
  | piccReqidl
  /-- `REQALL`. -/
  | piccReqall
  /-- `ANTICOLL` (two bytes). -/
  | piccAnticoll
  /-- `SELECT` (two bytes), then `u` = id0..id3, bcc and the CRC, low byte then high. -/
  | piccSelect (u : List Byte) (lo hi : Byte)
  /-- `AUTH1A`, then the block, 6 key bytes and 4 identifier bytes. -/
  | piccAuth1a (blk : Byte) (key uid : List Byte)
  /-- `AUTH1B`, then the block, 6 key bytes and 4 identifier bytes. -/
  | piccAuth1b (blk : Byte) (key uid : List Byte)
  /-- `READ`, then the block and the CRC. -/
  | piccRead (blk lo hi : Byte)
  /-- `WRITE`, then the block and the CRC (phase 1 of WRITE). -/
  | piccWrite (blk lo hi : Byte)
  /-- `DECREMENT`. -/
  | piccDecrement
  /-- `INCREMENT`. -/
  | piccIncrement
  /-- `RESTORE`. -/
  | piccRestore
  /-- `TRANSFER`. -/
  | piccTransfer
  /-- `HALT` (two bytes), then the CRC. -/
  | piccHalt (lo hi : Byte)
  deriving DecidableEq, Repr

/-- The encoding space of an instruction. -/
def Instr.port : Instr → Port
  | .wreg _ _ | .rreg _ | .setbits _ _ | .clrbits _ _ | .anton | .antoff | .crc _ | .transceive _ | .request _
  | .anticoll | .select _ | .auth _ _ _ _ | .stopcrypto | .read _ | .write _ _ | .halt | .readuid | .init => .host
  | .busW _ _ | .busR _ => .bus
  | .pcdIdle | .pcdCalcCRC | .pcdTransmit | .pcdReceive | .pcdTransceive | .pcdMFAuthent | .pcdSoftReset => .chipCommand
  | .piccReqidl | .piccReqall | .piccAnticoll | .piccSelect _ _ _ | .piccAuth1a _ _ _ | .piccAuth1b _ _ _
  | .piccRead _ _ _ | .piccWrite _ _ _ | .piccDecrement | .piccIncrement | .piccRestore | .piccTransfer
  | .piccHalt _ _ => .cardFrame

end Sys2Proof
end

