-- ==== Sys2Proof/WellFormed.lean ====
section
/-! DEFINITION. Which instruction terms the binary forms can carry. -/

namespace Sys2Proof

/-- The binary form carries the term: a counted sequence has at most 255 bytes (its length is one byte), SELECT has 5
bytes, AUTH a 6-byte key and 4 identifier bytes, WRITE 16 bytes (30_encoding.md R86 to R88), and a card frame the
bytes of R95. A well-formed CRC or TRANSCEIVE of more than 64 bytes is still refused when it runs (R145, R170). -/
def Instr.wellFormed : Instr → Bool
  | .crc d | .transceive d => d.length ≤ 255
  | .select u | .piccSelect u _ _ => u.length = 5
  | .auth _ _ key uid | .piccAuth1a _ key uid | .piccAuth1b _ key uid => key.length = 6 && uid.length = 4
  | .write _ d => d.length = 16
  | .wreg _ _ | .rreg _ | .setbits _ _ | .clrbits _ _ | .anton | .antoff | .request _ | .anticoll | .stopcrypto
  | .read _ | .halt | .readuid | .init => true
  | .busW _ _ | .busR _ => true
  | .pcdIdle | .pcdCalcCRC | .pcdTransmit | .pcdReceive | .pcdTransceive | .pcdMFAuthent | .pcdSoftReset => true
  | .piccReqidl | .piccReqall | .piccAnticoll | .piccRead _ _ _ | .piccWrite _ _ _ | .piccDecrement
  | .piccIncrement | .piccRestore | .piccTransfer | .piccHalt _ _ => true

end Sys2Proof
end

