-- ==== Sys2Proof/Decode.lean ====
section
/-! DEFINITION. Decoding, total on any byte string and rejecting by name, for each of the four encoding spaces; the
encoder, from the same tables (30_encoding.md), both under the parameters `PCD_CMD`, `PICC_CMD` and `DUMMY_TX` of
00_scope.md R8; and the layout of an opcode-table word as bytes. -/

namespace Sys2Proof

/-- Why a byte string spells no instruction. -/
inductive DecodeError where
  /-- The string is empty. -/
  | noBytes
  /-- The selector is 0x00 or 0x13..0xFF (30_encoding.md R89). -/
  | unknownSelector (b : Byte)
  /-- The string is shorter than its first byte calls for (R89). -/
  | truncated
  /-- An address byte with bit 0 set (R85), or a read whose second sent byte is not `DUMMY_TX` (R84). -/
  | reservedBus (b : Byte)
  /-- A chip command code that R93 reserves. -/
  | reservedCommand (b : Byte)
  /-- A first byte that begins no card frame of R94. -/
  | unknownFrame (b : Byte)
  deriving DecidableEq, Repr

/-- An instruction and the bytes after it, or the reason there is none. -/
abbrev Decoded := Except DecodeError (Instr × List Byte)

/-! ### Argument readers -/

/-- No argument bytes. -/
def arg0 (i : Instr) (bs : List Byte) : Decoded := .ok (i, bs)

/-- One argument byte. -/
def arg1 (f : Byte → Instr) : List Byte → Decoded
  | x :: bs => .ok (f x, bs)
  | [] => .error .truncated

/-- Two argument bytes. -/
def arg2 (f : Byte → Byte → Instr) : List Byte → Decoded
  | x :: y :: bs => .ok (f x y, bs)
  | _ => .error .truncated

/-- Three argument bytes. -/
def arg3 (f : Byte → Byte → Byte → Instr) : List Byte → Decoded
  | x :: y :: z :: bs => .ok (f x y z, bs)
  | _ => .error .truncated

/-- `n` argument bytes as one sequence. -/
def argN (n : Nat) (f : List Byte → Instr) (bs : List Byte) : Decoded :=
  if n ≤ bs.length then .ok (f (bs.take n), bs.drop n) else .error .truncated

/-- One length byte `n`, then `n` bytes (R86). -/
def argCounted (f : List Byte → Instr) : List Byte → Decoded
  | n :: bs => argN n.toNat f bs
  | [] => .error .truncated

/-- One byte, then `n` bytes. -/
def arg1N (n : Nat) (f : Byte → List Byte → Instr) : List Byte → Decoded
  | x :: bs => argN n (f x) bs
  | [] => .error .truncated

/-- Five bytes, then two: the operands of the SELECT frame. -/
def argSelectFrame (f : List Byte → Byte → Byte → Instr) (bs : List Byte) : Decoded :=
  if 5 ≤ bs.length then arg2 (f (bs.take 5)) (bs.drop 5) else .error .truncated

/-- A 6-byte key and 4 identifier bytes out of 10. -/
def keyAndUid (f : List Byte → List Byte → Instr) (d : List Byte) : Instr := f (d.take 6) (d.drop 6)

/-! ### The four decoders -/

/-- Host operations (30_encoding.md R86, R87): the selector, then exactly the bytes the table lists. -/
def decodeHost : List Byte → Decoded
  | [] => .error .noBytes
  | sel :: bs =>
    match sel with
    | 0x01 => arg2 .wreg bs
    | 0x02 => arg1 .rreg bs
    | 0x03 => arg2 .setbits bs
    | 0x04 => arg2 .clrbits bs
    | 0x05 => arg0 .anton bs
    | 0x06 => arg0 .antoff bs
    | 0x07 => argCounted .crc bs
    | 0x08 => argCounted .transceive bs
    | 0x09 => arg1 .request bs
    | 0x0A => arg0 .anticoll bs
    | 0x0B => argN 5 .select bs
    | 0x0C =>
      match bs with
      | mode :: rest => arg1N 10 (fun blk => keyAndUid (.auth mode blk)) rest
      | [] => .error .truncated
    | 0x0D => arg0 .stopcrypto bs
    | 0x0E => arg1 .read bs
    | 0x0F => arg1N 16 .write bs
    | 0x10 => arg0 .halt bs
    | 0x11 => arg0 .readuid bs
    | 0x12 => arg0 .init bs
    | _ => .error (.unknownSelector sel)

/-- Bus transactions (R83, R84): `0aaaaaa0 vvvvvvvv`, and `1aaaaaa0` with `DUMMY_TX` after it. -/
def decodeBus (P : Params) : List Byte → Decoded
  | [] => .error .noBytes
  | [_] => .error .truncated
  | c :: v :: bs =>
    if c.getLsbD 0 then .error (.reservedBus c)
    else if c.getLsbD 7 then
      if v = P.dummyTx then .ok (.busR (c.extractLsb' 1 6), bs) else .error (.reservedBus v)
    else .ok (.busW (c.extractLsb' 1 6) v, bs)

/-- Chip command codes (R92); every other code is reserved (R93). -/
def decodeCommand (P : Params) : List Byte → Decoded
  | [] => .error .noBytes
  | c :: bs =>
    if c = P.cmd.idle then arg0 .pcdIdle bs
    else if c = P.cmd.calcCrc then arg0 .pcdCalcCRC bs
    else if c = P.cmd.transmit then arg0 .pcdTransmit bs
    else if c = P.cmd.receive then arg0 .pcdReceive bs
    else if c = P.cmd.transceive then arg0 .pcdTransceive bs
    else if c = P.cmd.mfAuthent then arg0 .pcdMFAuthent bs
    else if c = P.cmd.softReset then arg0 .pcdSoftReset bs
    else .error (.reservedCommand c)

/-- A frame whose header is two bytes (R94), from its first byte and the bytes after it. -/
def decodeTwoByteHeader (P : Params) (c : Byte) : List Byte → Decoded
  | [] => .error .truncated
  | c2 :: bs =>
    if (c, c2) = P.picc.anticoll then arg0 .piccAnticoll bs
    else if (c, c2) = (P.picc.select, Machine.selectNvb) then argSelectFrame .piccSelect bs
    else if (c, c2) = P.picc.halt then arg2 .piccHalt bs
    else .error (.unknownFrame c2)

/-- Card frames that begin with a card command byte (R94), with the bytes R95 lists after it. -/
def decodeFrame (P : Params) : List Byte → Decoded
  | [] => .error .noBytes
  | c :: bs =>
    if c = P.picc.reqidl then arg0 .piccReqidl bs
    else if c = P.picc.reqall then arg0 .piccReqall bs
    else if c = P.picc.auth1a then arg1N 10 (fun blk => keyAndUid (.piccAuth1a blk)) bs
    else if c = P.picc.auth1b then arg1N 10 (fun blk => keyAndUid (.piccAuth1b blk)) bs
    else if c = P.picc.read then arg3 .piccRead bs
    else if c = P.picc.write then arg3 .piccWrite bs
    else if c = P.picc.decrement then arg0 .piccDecrement bs
    else if c = P.picc.increment then arg0 .piccIncrement bs
    else if c = P.picc.restore then arg0 .piccRestore bs
    else if c = P.picc.transfer then arg0 .piccTransfer bs
    else if c = P.picc.anticoll.1 ∨ c = P.picc.select ∨ c = P.picc.halt.1 then decodeTwoByteHeader P c bs
    else .error (.unknownFrame c)

/-- The decoder of an encoding space. -/
def decode (P : Params) : Port → List Byte → Decoded
  | .host => decodeHost
  | .bus => decodeBus P
  | .chipCommand => decodeCommand P
  | .cardFrame => decodeFrame P

/-- What is left of a host byte string that spells no operation: an unknown selector is one byte
(95_test_vectors.md L3 P4, where 0x13 is followed by 0x10), a short or empty string is used up. Log entry 6. -/
def afterIllegal : DecodeError → List Byte → List Byte
  | .unknownSelector _, bs => bs.drop 1
  | _, _ => []

/-! ### The encoder -/

/-- The address byte of a bus transaction, bit by bit as R82's table draws it. -/
def busAddrByte (isRead : Bool) (a : RegAddr) : Byte := BitVec.ofBool isRead ++ a ++ 0#1

/-- The bytes of a well-formed instruction (30_encoding.md R87, R83, R84, R92, R94, R95). AUTH carries the first four
bytes of its `uid` (R205). -/
def encode (P : Params) : Instr → List Byte
  | .wreg a v => [0x01, a, v]
  | .rreg a => [0x02, a]
  | .setbits a m => [0x03, a, m]
  | .clrbits a m => [0x04, a, m]
  | .anton => [0x05]
  | .antoff => [0x06]
  | .crc d => 0x07 :: BitVec.ofNat 8 d.length :: d
  | .transceive d => 0x08 :: BitVec.ofNat 8 d.length :: d
  | .request mode => [0x09, mode]
  | .anticoll => [0x0A]
  | .select u => 0x0B :: u
  | .auth mode blk key uid => 0x0C :: mode :: blk :: (key ++ uid.take 4)
  | .stopcrypto => [0x0D]
  | .read blk => [0x0E, blk]
  | .write blk d => 0x0F :: blk :: d
  | .halt => [0x10]
  | .readuid => [0x11]
  | .init => [0x12]
  | .busW a v => [busAddrByte false a, v]
  | .busR a => [busAddrByte true a, P.dummyTx]
  | .pcdIdle => [P.cmd.idle]
  | .pcdCalcCRC => [P.cmd.calcCrc]
  | .pcdTransmit => [P.cmd.transmit]
  | .pcdReceive => [P.cmd.receive]
  | .pcdTransceive => [P.cmd.transceive]
  | .pcdMFAuthent => [P.cmd.mfAuthent]
  | .pcdSoftReset => [P.cmd.softReset]
  | .piccReqidl => [P.picc.reqidl]
  | .piccReqall => [P.picc.reqall]
  | .piccAnticoll => [P.picc.anticoll.1, P.picc.anticoll.2]
  | .piccSelect u lo hi => P.picc.select :: Machine.selectNvb :: (u ++ [lo, hi])
  | .piccAuth1a blk key uid => P.picc.auth1a :: blk :: (key ++ uid)
  | .piccAuth1b blk key uid => P.picc.auth1b :: blk :: (key ++ uid)
  | .piccRead blk lo hi => [P.picc.read, blk, lo, hi]
  | .piccWrite blk lo hi => [P.picc.write, blk, lo, hi]
  | .piccDecrement => [P.picc.decrement]
  | .piccIncrement => [P.picc.increment]
  | .piccRestore => [P.picc.restore]
  | .piccTransfer => [P.picc.transfer]
  | .piccHalt lo hi => [P.picc.halt.1, P.picc.halt.2, lo, hi]

/-! ### Opcode-table words -/

/-- How many zero bytes a table word needs after it: the longest operation of a fixed length has 17 argument bytes, and
CRC and TRANSCEIVE have as many more as their length byte, the second one, says. -/
def padLength (w : Nat) : Nat := 17 + w / 256 % 256

/-- The bytes of a number, the least significant first. -/
def bytesOfNat : Nat → Nat → List Byte
  | 0, _ => []
  | n + 1, w => BitVec.ofNat 8 w :: bytesOfNat n (w / 256)

/-- A table word with its first byte in bits 7..0, and zero bytes after it, up to the longest
instruction that can begin so. -/
def paddedBytes (nbits w : Nat) : List Byte :=
  bytesOfNat (nbits / 8) w ++ List.replicate (padLength w) 0

/-- Whether a space's decoder reads an instruction from the bytes, under the default parameters: the table's words are
the codes at their defaults. -/
def accepts (p : Port) (bs : List Byte) : Bool :=
  match decode .default p bs with
  | .ok _ => true
  | .error _ => false

/-- Which space a table word belongs to, and its bytes. The table's number does not carry its row's `format`, so the
spaces are tried in a fixed order (log entry 5). A two-byte card header is numbered by the table with its FIRST byte
in the high half (0x9320 is the bytes 0x93 0x20 of R94). Of 16 bits the table has otherwise only the bus forms; of
8 bits a host selector is tried first, then a card command byte, a chip command code and a bus form. -/
def tableLayout (nbits w : Nat) : Port × List Byte :=
  let bs := paddedBytes nbits w
  if nbits = 16 ∧ (w = 0x9320 ∨ w = 0x9370 ∨ w = 0x5000) then
    (.cardFrame, BitVec.ofNat 8 (w / 256) :: BitVec.ofNat 8 w :: List.replicate (padLength w) 0)
  else if nbits = 16 ∧ accepts .bus bs then (.bus, bs)
  else if accepts .host bs then (.host, bs)
  else if accepts .cardFrame bs then (.cardFrame, bs)
  else if nbits = 8 ∧ accepts .chipCommand bs then (.chipCommand, bs)
  else if accepts .bus bs then (.bus, bs)
  else (.host, bs)

/-- The instruction the decoder reads from a table word (the fixed interface's name). -/
def decodeTableWord (nbits w : Nat) : Option Instr :=
  match decode .default (tableLayout nbits w).1 (tableLayout nbits w).2 with
  | .ok (i, _) => some i
  | .error _ => none

/-- The bytes of a table word's instruction and no more; all of them where none is read. -/
def tableInstrBytes (nbits w : Nat) : List Byte :=
  let bs := (tableLayout nbits w).2
  match decode .default (tableLayout nbits w).1 bs with
  | .ok (_, rest) => bs.take (bs.length - rest.length)
  | .error _ => bs.take (nbits / 8)

end Sys2Proof
end

