-- ==== Sys2Proof/Machine/State.lean ====
section
/-! DEFINITION. The state of the engine as plain data (10_state.md R20 and the host and chip interfaces of
00_scope.md R5, R6), the values it returns (R52 to R57), and its fresh state (70_reset_and_hazards.md R280). -/

namespace Sys2Proof.Machine

/-! ### Values -/

/-- The session phase (10_state.md R24). -/
inductive Phase where
  | idle
  | requested
  | collisionResolved
  | selected
  | authenticated
  | halted
  deriving DecidableEq, Repr

/-- `Status` (R52). -/
inductive Status where
  | ok
  | noTag
  | err
  deriving DecidableEq, Repr

/-- One bus transaction of the trace: `W(a, v)` or `R(a, v)` (00_scope.md R11). -/
inductive Transaction where
  | write (a : RegAddr) (v : Byte)
  | read (a : RegAddr) (v : Byte)
  deriving DecidableEq, Repr

/-- What happens on the bus lines, in order (30_encoding.md R81 to R84). -/
inductive WireEvent where
  /-- Chip-select is driven low. -/
  | csAssert
  /-- A byte is sent; what the chip returns meanwhile is ignored. -/
  | send (b : Byte)
  /-- A byte is sent and the byte received meanwhile is taken. -/
  | exchange (sent received : Byte)
  /-- Chip-select is released. -/
  | csRelease
  deriving DecidableEq, Repr

/-- `TransceiveResult` (10_state.md R53). -/
structure TransceiveResult where
  status : Status
  data : List Byte
  bitLength : Nat
  deriving DecidableEq, Repr

/-- `Uid` (R54): four identifier bytes and the checksum byte. -/
structure Uid where
  id0 : Byte
  id1 : Byte
  id2 : Byte
  id3 : Byte
  bcc : Byte
  deriving DecidableEq, Repr

/-- The reasons of `refuse` (60_exceptions.md R252). -/
inductive RefusalReason where
  /-- An unknown selector or a short byte string (30_encoding.md R89). -/
  | illegalOperation
  /-- A wrong key, UID or block length (R200, R207, R215). -/
  | badArgument
  /-- More than 64 bytes to CRC or TRANSCEIVE (R145, R170). -/
  | frameTooLong
  deriving DecidableEq, Repr

/-- The phase of a WRITE that failed (10_state.md R56). -/
inductive WritePhase where
  | one
  | two
  deriving DecidableEq, Repr

/-- What a host operation returns to the host (10_state.md R57, 60_exceptions.md R250, R252). -/
inductive Result where
  /-- `unit`: WREG, SETBITS, CLRBITS, ANTON, ANTOFF, STOPCRYPTO, INIT, WRITE. -/
  | unit
  /-- The byte RREG read. -/
  | byte (v : Byte)
  /-- CRC's `(lo, hi)`. -/
  | crcPair (lo hi : Byte)
  /-- TRANSCEIVE's record. -/
  | transceive (r : TransceiveResult)
  /-- REQUEST's `(Ok, atqa)` or `(Err, [])`. -/
  | request (status : Status) (atqa : List Byte)
  /-- ANTICOLL's `(Ok, uid)` or `(Err, none)`. -/
  | anticoll (status : Status) (uid : Option Uid)
  /-- SELECT's SAK byte, or 0. -/
  | sak (v : Byte)
  /-- AUTH's `Ok`. -/
  | authOk
  /-- AUTH's failure. -/
  | authenticationError
  /-- READ's block. -/
  | block (d : List Byte)
  /-- READ's failure. -/
  | readError (blk : Byte)
  /-- WRITE's failure. -/
  | writeError (blk : Byte) (phase : WritePhase)
  /-- HALT's exchange status. -/
  | haltStatus (status : Status)
  /-- READUID's UID. -/
  | uid (u : Uid)
  /-- READUID's failure. -/
  | noCard
  /-- `Refused(reason)`. -/
  | refused (reason : RefusalReason)
  deriving DecidableEq, Repr

/-- The chip command of an exchange (42_transceiver.md R161). -/
inductive ExchangeCommand where
  | transceive
  | mfAuthent
  deriving DecidableEq, Repr

/-- Something presented to the engine (00_scope.md R5; log entry 3): a byte string of an encoding space, read one
instruction after another, or an instruction in its abstract form (30_encoding.md R88). -/
inductive Presented where
  | bytes (p : Port) (bs : List Byte)
  | term (i : Instr)
  deriving DecidableEq, Repr

/-! ### State -/

/-- The engine's side of the serial bus. -/
structure Bus where
  /-- `S.trace` (R20, R11): every transaction since the fresh state, in order. -/
  trace : List Transaction
  /-- The bus lines' history since the fresh state (R81, R122). -/
  wire : List WireEvent
  /-- The answers the chip will give to the next bus reads, in order (R6). -/
  answers : List Byte
  /-- How many answers came from the free value `Config.chipAnswer` (log entry 2). -/
  draws : Nat
  deriving DecidableEq, Repr

/-- The state of the engine: the fields of 10_state.md R20 (`trace` inside `bus`), then what the host has still to
present, what has been returned to it, and the parameters of the machine. -/
structure State where
  /-- `S.antennaOn` (R20, R21). -/
  antennaOn : Bool
  /-- `S.authenticated` (R20, R22). -/
  authenticated : Bool
  /-- `S.phase` (R24, R25). -/
  phase : Phase
  /-- `S.initialised`, sticky (R282). -/
  initialised : Bool
  /-- `S.opIndex` (R27): host operations completed, no width limit. -/
  opIndex : Nat
  /-- `S.crcTimeout`, sticky (R142). -/
  crcTimeout : Bool
  /-- `S.hostDuty`, sticky (R253). -/
  hostDuty : Bool
  /-- `S.refused`, sticky (R252). -/
  refused : Bool
  /-- `S.trace` and the bus interface. -/
  bus : Bus
  /-- The results returned to the host, in order (R57; the observation of 70_reset_and_hazards.md R287). -/
  results : List Result
  /-- What is presented to the engine and not yet taken, in order (R5). -/
  pending : List Presented
  /-- The parameters the model takes as an argument (00_scope.md R8), `INIT_SEQUENCE` among them; nothing writes them.
  Log entries 1, 4. -/
  params : Params
  deriving DecidableEq, Repr

/-- The reasons a step ends in a fault: none. "The engine has no traps. A failure is a value the operation returns"
(60_exceptions.md, R251, R257), and the bus never fails (R120, R121). -/
inductive Fault where
  deriving DecidableEq, Repr

/-- The reasons a step has no meaning. `refuse(reason)` of R252 is none of them: it has an effect, a next state. -/
inductive Refusal where
  /-- Raised by an arm of `exec` whose instruction has no meaning yet (no arm is such). Safe: the model stops. -/
  | notModelled (mnemonic : String)
  /-- Raised by `step` on bytes of the bus, command or frame space that no rule of the engine emits (30_encoding.md
  R85 "The engine never sends an address byte with bit 0 set", R93 "No rule of the engine writes one", R94; log entry
  10). Safe: the model stops. -/
  | reservedEncoding (p : Port)
  deriving DecidableEq, Repr

/-- A bus with nothing done on it and no answer supplied. -/
def Bus.fresh : Bus := { trace := [], wire := [], answers := [], draws := 0 }

/-- The fresh engine, before any operation (70_reset_and_hazards.md R280). The engine's own fields are the spec's; the
interface fields are empty and the parameters are at their defaults (log entries 1 to 4). -/
def State.reset : State where
  antennaOn := false
  authenticated := false
  phase := .idle
  initialised := false
  opIndex := 0
  crcTimeout := false
  hostDuty := false
  refused := false
  bus := Bus.fresh
  results := []
  pending := []
  params := .default

end Sys2Proof.Machine
end

