-- ==== Sys2Proof/Machine/Ops.lean ====
section
/-! DEFINITION. The shared operations: one bus transaction and what is built of it (40_register_access.md), the
updates of the session fields, completing a host operation, and refusing one (60_exceptions.md R251, R252), which is
all this hardware has in place of exception entry and return (R257, R258). -/

namespace Sys2Proof.Machine

/-! ### Addresses -/

/-- The register a host's address byte reaches, `a mod 64` (30_encoding.md R88, R82). -/
def regAddr (a : Byte) : RegAddr := a.setWidth 6

/-- A chip register's address as the number the formula of R82 takes. -/
def wide (a : RegAddr) : Byte := a.setWidth 8

/-- `addrByte(a, isRead) = ((a << 1) & M.ADDR) | (isRead ? M.READ : 0x00)` (R82). -/
def addrByte (a : Byte) (isRead : Bool) : Byte :=
  ((a <<< 1) &&& Mask.addr) ||| (if isRead then Mask.read else 0x00)

/-! ### The bus

An operation that reads takes the parameters, for `DUMMY_TX`; the addresses and masks are its caller's. -/

/-- One event on the bus lines. -/
def Bus.emit (e : WireEvent) (b : Bus) : Bus := { b with wire := b.wire ++ [e] }

/-- One transaction appended to the trace. -/
def Bus.record (t : Transaction) (b : Bus) : Bus := { b with trace := b.trace ++ [t] }

/-- The chip's answer to a read: the next one supplied, else a fresh free value (00_scope.md R6; log entry 2). -/
def Bus.draw (b : Bus) : Byte × Bus :=
  match b.answers with
  | v :: rest => (v, { b with answers := rest })
  | [] => (Config.chipAnswer b.draws, { b with draws := b.draws + 1 })

/-- `writeRegister(a, v)` = `BusWrite(a, v)` (R120, R83). -/
def Bus.write (a : RegAddr) (v : Byte) (b : Bus) : Bus :=
  ((((b.emit .csAssert).emit (.send (addrByte (wide a) false))).emit (.send v)).emit .csRelease).record (.write a v)

/-- `v <- readRegister(a)` = `v <- BusRead(a)` (R121, R84). -/
def Bus.read (P : Params) (a : RegAddr) (b : Bus) : Byte × Bus :=
  let d := ((b.emit .csAssert).emit (.send (addrByte (wide a) true))).draw
  (d.1, ((d.2.emit (.exchange P.dummyTx d.1)).emit .csRelease).record (.read a d.1))

/-- `setBitMask(a, m)` (R123): a read and a write, not atomic. -/
def Bus.setBits (P : Params) (a : RegAddr) (m : Byte) (b : Bus) : Bus :=
  let r := b.read P a
  r.2.write a (r.1 ||| m)

/-- `clearBitMask(a, m)` (R124): `~m` is `0xFF ^ m`. -/
def Bus.clearBits (P : Params) (a : RegAddr) (m : Byte) (b : Bus) : Bus :=
  let r := b.read P a
  r.2.write a (r.1 &&& ~~~m)

/-- `writeRegister(a, v)` for each byte in order (41_crc_engine.md R141 step 3, 42_transceiver.md R161 step 5). -/
def Bus.load (a : RegAddr) : List Byte → Bus → Bus
  | [], b => b
  | v :: d, b => (b.write a v).load a d

/-- `writeRegister(a, v)` for each pair in order (43_protocol.md R225). -/
def Bus.writePairs : List (RegAddr × Byte) → Bus → Bus
  | [], b => b
  | p :: ps, b => (b.write p.1 p.2).writePairs ps

/-- `n` reads of one register, the answers in the order read (R161 step 13). -/
def Bus.drain (P : Params) (a : RegAddr) : Nat → Bus → List Byte × Bus
  | 0, b => ([], b)
  | n + 1, b =>
    let r := b.read P a
    let q := r.2.drain P a n
    (r.1 :: q.1, q.2)

/-- How a bounded poll ended: the last answer, whether an exit bit was seen (*observed*), and the bus. -/
structure Poll where
  last : Byte
  seen : Bool
  bus : Bus

/-- A poll loop (41_crc_engine.md R143): at most `budget` reads of `a`, ending after the first whose answer has a bit
of `mask`. `last` is the value before the loop's first read (`irq <- 0x00`). -/
def Bus.poll (P : Params) (a : RegAddr) (mask : Byte) : Nat → Byte → Bus → Poll
  | 0, last, b => { last := last, seen := false, bus := b }
  | n + 1, _, b =>
    let r := b.read P a
    if r.1 &&& mask ≠ 0 then { last := r.1, seen := true, bus := r.2 } else r.2.poll P a mask n r.1

/-! ### The session fields -/

/-- Transactions, and nothing else. -/
def State.onBus (f : Bus → Bus) (s : State) : State := { s with bus := f s.bus }

/-- `S.antennaOn <- v`. -/
def State.setAntennaOn (v : Bool) (s : State) : State := { s with antennaOn := v }

/-- `S.authenticated <- v`. -/
def State.setAuthenticated (v : Bool) (s : State) : State := { s with authenticated := v }

/-- `S.phase <- p`. -/
def State.setPhase (p : Phase) (s : State) : State := { s with phase := p }

/-- `S.initialised <- true`. -/
def State.setInitialised (s : State) : State := { s with initialised := true }

/-- `if c: S.crcTimeout <- true` (R142). -/
def State.markCrcTimeout (c : Bool) (s : State) : State := { s with crcTimeout := s.crcTimeout || c }

/-- `if c: S.hostDuty <- true` (R253). -/
def State.markHostDuty (c : Bool) (s : State) : State := { s with hostDuty := s.hostDuty || c }

/-! ### A host operation's start, end and refusal -/

/-- The start of any host operation but INIT: one issued while `S.initialised = false` breaks a host duty
(70_reset_and_hazards.md R282). -/
def State.begin (s : State) : State := s.markHostDuty (!s.initialised)

/-- The operation returns `r` to the host, and `S.opIndex <- S.opIndex + 1` (40_register_access.md preamble, R27). A
typed failure is such a result too (60_exceptions.md R251). -/
def State.complete (r : Result) (s : State) : State :=
  { s with opIndex := s.opIndex + 1, results := s.results ++ [r] }

/-- `refuse(reason)` (R252): no transaction, only `S.refused` and `S.opIndex` change, and `Refused(reason)` is
returned. -/
def State.refuse (reason : RefusalReason) (s : State) : State :=
  { s with refused := true }.complete (.refused reason)

end Sys2Proof.Machine
end

