-- ==== Sys2Proof/Machine/Operands.lean ====
section
/-! DEFINITION. Operand forms: the length checks (60_exceptions.md R252), the frames (30_encoding.md R95), the UID and
its checksum. -/

namespace Sys2Proof.Machine

/-! ### Length checks -/

/-- CRC and TRANSCEIVE admit at most `MAX_FRAME` bytes (41_crc_engine.md R145, 42_transceiver.md R170). -/
def frameLengthOk (P : Params) (d : List Byte) : Bool := d.length ≤ P.maxFrame

/-- SELECT takes 5 bytes (43_protocol.md R200). -/
def selectLengthOk (u : List Byte) : Bool := u.length = uidLen

/-- AUTH takes a key of 6 bytes and a `uid` of at least 4 (R207). -/
def authLengthsOk (key uid : List Byte) : Bool := key.length = keyLen && uidIdLen ≤ uid.length

/-- WRITE takes 16 bytes (R215). -/
def writeLengthOk (d : List Byte) : Bool := d.length = blockLen

/-! ### Frames -/

/-- A frame with its CRC appended, low byte then high (41_crc_engine.md R148). -/
def withCrc (f : List Byte) (c : Byte × Byte) : List Byte := f ++ [c.1, c.2]

/-- SELECT's frame before its CRC: `[0x93, 0x70] ++ u[0..4]` (R200). -/
def selectFrame (P : Params) (u : List Byte) : List Byte := [P.picc.select, selectNvb] ++ u.take uidLen

/-- AUTH's frame: `[mode, blk] ++ key[0..5] ++ u[0..3]` (R205). -/
def authFrame (mode blk : Byte) (key uid : List Byte) : List Byte :=
  [mode, blk] ++ key.take keyLen ++ uid.take uidIdLen

/-- HALT's frame before its CRC (R218). -/
def haltFrame (P : Params) : List Byte := [P.picc.halt.1, P.picc.halt.2]

/-- ANTICOLL's frame (R195). -/
def anticollFrame (P : Params) : List Byte := [P.picc.anticoll.1, P.picc.anticoll.2]

/-- READ's frame before its CRC (R210). -/
def readFrame (P : Params) (blk : Byte) : List Byte := [P.picc.read, blk]

/-- WRITE's phase 1 frame before its CRC (R212). -/
def writeFrame (P : Params) (blk : Byte) : List Byte := [P.picc.write, blk]

/-! ### The UID -/

/-- `bcc = id[0] ^ id[1] ^ id[2] ^ id[3]` (10_state.md R54, 43_protocol.md R196). -/
def Uid.valid (u : Uid) : Bool := u.id0 ^^^ u.id1 ^^^ u.id2 ^^^ u.id3 = u.bcc

/-- `id ++ [bcc]`, the UID as a 5-byte sequence on the bus (R54). -/
def Uid.bytes (u : Uid) : List Byte := [u.id0, u.id1, u.id2, u.id3, u.bcc]

/-- A 5-byte sequence as a UID record; any other length is none. -/
def uidOfBytes : List Byte → Option Uid
  | [b0, b1, b2, b3, b4] => some { id0 := b0, id1 := b1, id2 := b2, id3 := b3, bcc := b4 }
  | _ => none

/-- The UID of a response of 5 bytes whose checksum validates (R195). -/
def validUid (data : List Byte) : Option Uid :=
  match uidOfBytes data with
  | some u => if u.valid then some u else none
  | none => none

end Sys2Proof.Machine
end

