-- ==== Sys2Proof/Machine/Flags.lean ====
section
/-! DEFINITION. Every test the engine makes on a byte the chip answered, the status and bit length computed from them
(42_transceiver.md R164 to R168, R254), the acknowledgement test (43_protocol.md R213), and the numeric codes of the
results (10_state.md R52, 60_exceptions.md R250). -/

namespace Sys2Proof.Machine

/-! ### The masks of an exchange (R161, R163, R164) -/

/-- `ComIEn`'s value for the command. -/
def irqEnable (P : Params) : ExchangeCommand → Byte
  | .transceive => P.mask.irqEnXcv
  | .mfAuthent => P.mask.irqEnAuth

/-- The exit mask of the exchange poll. -/
def exitMask (P : Params) : ExchangeCommand → Byte
  | .transceive => P.mask.xcvExit
  | .mfAuthent => P.mask.authExit

/-- The chip command code (30_encoding.md R92). -/
def ExchangeCommand.code (P : Params) : ExchangeCommand → Byte
  | .transceive => P.cmd.transceive
  | .mfAuthent => P.cmd.mfAuthent

/-! ### Tests -/

/-- Both antenna bits are set (40_register_access.md R125). -/
def antennaBitsSet (txControl : Byte) : Bool := txControl &&& Mask.antenna = Mask.antenna

/-- An error bit the exchange tests is set (R165). -/
def errorBitSet (P : Params) (error : Byte) : Bool := error &&& P.mask.err ≠ 0

/-- `Status2`'s crypto-session bit is set (43_protocol.md R206). -/
def cryptoOn (P : Params) (status2 : Byte) : Bool := status2 &&& P.mask.crypto1On ≠ 0

/-- The status of an observed exchange with no error bit (R165 (c), (d)). -/
def observedStatus (P : Params) (irq : Byte) : Status := if irq &&& P.mask.timerIrq ≠ 0 then .noTag else .ok

/-- Whether the exchange drains the FIFO (R168). -/
def drains (P : Params) (cmd : ExchangeCommand) (irq : Byte) : Bool := cmd = .transceive && irq &&& P.mask.rxInd ≠ 0

/-! ### Bit length -/

/-- `lvl`, from a `FIFOLevel` answer (R167). -/
def fifoLevelOf (P : Params) (v : Byte) : Nat := (v &&& P.mask.fifoLevel).toNat

/-- `vb`, from a `Control` answer (R166). -/
def validBitsOf (v : Byte) : Nat := (v &&& Mask.rxLastBits).toNat

/-- `bitLength(lvl, vb)` (R167): an integer intermediate, clamped at 0 and at `MAX_RX_BITS`. -/
def bitLengthOf (lvl vb : Nat) : Nat :=
  let raw : Int := if vb ≠ 0 then ((lvl : Int) - 1) * 8 + vb else (lvl : Int) * 8
  (min (max raw 0) maxRxBits).toNat

/-- `ceil(bl / 8)` (R168). -/
def drainCount (bl : Nat) : Nat := (bl + 7) / 8

/-! ### Success conditions of the protocol operations -/

/-- REQUEST's (R191). -/
def requestOk (r : TransceiveResult) : Bool := r.status = .ok && r.bitLength = atqaBits

/-- ANTICOLL's: the valid UID of an `Ok` exchange (R195). -/
def anticollUid (r : TransceiveResult) : Option Uid := if r.status = .ok then validUid r.data else none

/-- SELECT's (R201). -/
def selectOk (r : TransceiveResult) : Bool := r.status = .ok && r.bitLength = sakBits

/-- AUTH's (R206). -/
def authOk (P : Params) (r : TransceiveResult) (status2 : Byte) : Bool := r.status = .ok && cryptoOn P status2

/-- READ's (R210). -/
def readOk (r : TransceiveResult) : Bool := r.status = .ok && r.data.length = blockLen

/-- The acknowledgement test of both WRITE phases (R213). -/
def ack (r : TransceiveResult) : Bool :=
  r.status = .ok && r.bitLength = ackBits && r.data.headD 0 &&& ackMask = ackCode

/-! ### Numeric codes -/

/-- `Ok` = 0, `NoTag` = 1, `Err` = 2 (R52). -/
def Status.code : Status → Byte
  | .ok => 0x00
  | .noTag => 0x01
  | .err => 0x02

/-- The code R250 assigns to a result that carries a status or is a typed failure; none for the others. -/
def Result.code : Result → Option Byte
  | .transceive r => some r.status.code
  | .request st _ => some st.code
  | .anticoll st _ => some st.code
  | .haltStatus st => some st.code
  | .authOk => some (Status.ok).code
  | .authenticationError => some 0x10
  | .readError _ => some 0x11
  | .writeError _ _ => some 0x12
  | .noCard => some 0x13
  | .unit | .byte _ | .crcPair _ _ | .sak _ | .block _ | .uid _ | .refused _ => none

end Sys2Proof.Machine
end

