-- ==== Sys2Proof/Machine/BusForms.lean ====
section
/-! DEFINITION. The rows of the opcode table that are not host operations: the two bus transaction forms
(30_encoding.md R83, R84), the chip command codes (R92) and the card command bytes (R94). The engine's part of each is
its transactions: a bus form is one transaction, a chip command is a byte written to `Command`, a card frame is loaded
into the FIFO byte by byte (R64, R95; 42_transceiver.md R161 steps 4 to 6). No host operation completes: "only the
transactions happen" (40_register_access.md preamble). Log entry 7. -/

namespace Sys2Proof.Machine

/-! ### Bus transactions -/

/-- BUS-W (R83). -/
def execBusW (a : RegAddr) (v : Byte) (s : State) : Host.Outcome State Fault Refusal :=
  .next (s.onBus (Bus.write a v))

/-- BUS-R (R84): the answer is a draw. -/
def execBusR (a : RegAddr) (s : State) : Host.Outcome State Fault Refusal :=
  .next (s.onBus fun b => (b.read s.params a).2)

/-! ### Chip command codes -/

/-- The byte written to `Command` (R92). -/
def State.issueCommand (code : Byte) (s : State) : State := s.onBus (Bus.write s.params.reg.command code)

/-- PCD.Idle. -/
def execPcdIdle (s : State) : Host.Outcome State Fault Refusal := .next (s.issueCommand s.params.cmd.idle)

/-- PCD.CalcCRC. -/
def execPcdCalcCRC (s : State) : Host.Outcome State Fault Refusal := .next (s.issueCommand s.params.cmd.calcCrc)

/-- PCD.Transmit. -/
def execPcdTransmit (s : State) : Host.Outcome State Fault Refusal := .next (s.issueCommand s.params.cmd.transmit)

/-- PCD.Receive. -/
def execPcdReceive (s : State) : Host.Outcome State Fault Refusal := .next (s.issueCommand s.params.cmd.receive)

/-- PCD.Transceive. -/
def execPcdTransceive (s : State) : Host.Outcome State Fault Refusal := .next (s.issueCommand s.params.cmd.transceive)

/-- PCD.MFAuthent. -/
def execPcdMFAuthent (s : State) : Host.Outcome State Fault Refusal := .next (s.issueCommand s.params.cmd.mfAuthent)

/-- PCD.SoftReset. -/
def execPcdSoftReset (s : State) : Host.Outcome State Fault Refusal := .next (s.issueCommand s.params.cmd.softReset)

/-! ### Card command bytes -/

/-- The frame's bytes pushed into the chip FIFO, first to last (R64, R161 step 5). -/
def State.loadFrame (f : List Byte) (s : State) : State := s.onBus (Bus.load s.params.reg.fifoData f)

/-- PICC.REQIDL. -/
def execPiccReqidl (s : State) : Host.Outcome State Fault Refusal := .next (s.loadFrame [s.params.picc.reqidl])

/-- PICC.REQALL. -/
def execPiccReqall (s : State) : Host.Outcome State Fault Refusal := .next (s.loadFrame [s.params.picc.reqall])

/-- PICC.ANTICOLL. -/
def execPiccAnticoll (s : State) : Host.Outcome State Fault Refusal := .next (s.loadFrame (anticollFrame s.params))

/-- PICC.SELECT. -/
def execPiccSelect (u : List Byte) (lo hi : Byte) (s : State) : Host.Outcome State Fault Refusal :=
  .next (s.loadFrame ([s.params.picc.select, selectNvb] ++ u ++ [lo, hi]))

/-- PICC.AUTH1A. -/
def execPiccAuth1a (blk : Byte) (key uid : List Byte) (s : State) : Host.Outcome State Fault Refusal :=
  .next (s.loadFrame ([s.params.picc.auth1a, blk] ++ key ++ uid))

/-- PICC.AUTH1B. -/
def execPiccAuth1b (blk : Byte) (key uid : List Byte) (s : State) : Host.Outcome State Fault Refusal :=
  .next (s.loadFrame ([s.params.picc.auth1b, blk] ++ key ++ uid))

/-- PICC.READ. -/
def execPiccRead (blk lo hi : Byte) (s : State) : Host.Outcome State Fault Refusal :=
  .next (s.loadFrame [s.params.picc.read, blk, lo, hi])

/-- PICC.WRITE. -/
def execPiccWrite (blk lo hi : Byte) (s : State) : Host.Outcome State Fault Refusal :=
  .next (s.loadFrame [s.params.picc.write, blk, lo, hi])

/-- PICC.DECREMENT. -/
def execPiccDecrement (s : State) : Host.Outcome State Fault Refusal := .next (s.loadFrame [s.params.picc.decrement])

/-- PICC.INCREMENT. -/
def execPiccIncrement (s : State) : Host.Outcome State Fault Refusal := .next (s.loadFrame [s.params.picc.increment])

/-- PICC.RESTORE. -/
def execPiccRestore (s : State) : Host.Outcome State Fault Refusal := .next (s.loadFrame [s.params.picc.restore])

/-- PICC.TRANSFER. -/
def execPiccTransfer (s : State) : Host.Outcome State Fault Refusal := .next (s.loadFrame [s.params.picc.transfer])

/-- PICC.HALT. -/
def execPiccHalt (lo hi : Byte) (s : State) : Host.Outcome State Fault Refusal :=
  .next (s.loadFrame (haltFrame s.params ++ [lo, hi]))

end Sys2Proof.Machine
end

