-- ==== Sys2Proof/Machine/CrcEngine.lean ====
section
/-! DEFINITION. The CRCEngine (41_crc_engine.md): the coprocessor's drive sequence, CRC, and the chip's own CRC_A,
which a claim may assume of the answers and no rule of the engine computes. -/

namespace Sys2Proof.Machine

/-- What `calculateCrc` leaves: the two answers, whether the poll was observed, and the bus. -/
structure CrcOutcome where
  lo : Byte
  hi : Byte
  seen : Bool
  bus : Bus

/-- `calculateCrc(d)`'s transactions (R141 steps 1 to 7). -/
def Bus.calculateCrc (P : Params) (d : List Byte) (b : Bus) : CrcOutcome :=
  let started :=
    (((b.clearBits P P.reg.divIrq P.mask.divIrqCrc).setBits P P.reg.fifoLevel P.mask.flush).load P.reg.fifoData d).write
      P.reg.command P.cmd.calcCrc
  let p := started.poll P P.reg.divIrq P.mask.divIrqCrc crcPollBudget 0x00
  let lo := p.bus.read P P.reg.crcResultL
  let hi := lo.2.read P P.reg.crcResultH
  { lo := lo.1, hi := hi.1, seen := p.seen, bus := hi.2 }

/-- `calculateCrc(d)`: the result and the state after, with the model-only mark of an exhausted poll (R142). -/
def State.calculateCrc (d : List Byte) (s : State) : (Byte × Byte) × State :=
  let c := s.bus.calculateCrc s.params d
  ((c.lo, c.hi), (s.onBus fun _ => c.bus).markCrcTimeout (!c.seen))

/-- CRC (R141); more than `MAX_FRAME` bytes are refused (R145). -/
def execCrc (d : List Byte) (s : State) : Host.Outcome State Fault Refusal :=
  .next
    (if frameLengthOk s.params d then
      let c := s.begin.calculateCrc d
      c.2.complete (.crcPair c.1.1 c.1.2)
    else s.refuse .frameTooLong)

/-! ### CRC_A (R146), the chip's -/

/-- One of the 8 shifts of a byte: `c[0] = 1 ? (c >> 1) ^ 0x8408 : c >> 1`. -/
def crcAShift (c : BitVec 16) : BitVec 16 := if c.getLsbD 0 then (c >>> 1) ^^^ 0x8408#16 else c >>> 1

/-- One byte of CRC_A. -/
def crcAByte (c : BitVec 16) (b : Byte) : BitVec 16 :=
  crcAShift (crcAShift (crcAShift (crcAShift (crcAShift (crcAShift (crcAShift (crcAShift (c ^^^ b.setWidth 16))))))))

/-- `CRC_A(d)`: preset 0x6363, least significant bit first, no final inversion. -/
def crcA (d : List Byte) : BitVec 16 := d.foldl crcAByte 0x6363#16

end Sys2Proof.Machine
end

