-- ==== Sys2Proof/Machine/RegisterAccess.lean ====
section
/-! DEFINITION. The RegisterAccess operations (40_register_access.md): WREG, RREG, SETBITS, CLRBITS, ANTON, ANTOFF. -/

namespace Sys2Proof.Machine

/-- `antennaOn()`'s transactions (R125): one read, and a SETBITS unless both bits are set. -/
def Bus.antennaOn (P : Params) (b : Bus) : Bus :=
  let r := b.read P P.reg.txControl
  if antennaBitsSet r.1 then r.2 else r.2.setBits P P.reg.txControl Mask.antenna

/-- WREG (R120). -/
def execWreg (a v : Byte) (s : State) : Host.Outcome State Fault Refusal :=
  .next ((s.begin.onBus (Bus.write (regAddr a) v)).complete .unit)

/-- RREG (R121). -/
def execRreg (a : Byte) (s : State) : Host.Outcome State Fault Refusal :=
  .next ((s.begin.onBus fun b => (b.read s.params (regAddr a)).2).complete (.byte (s.bus.read s.params (regAddr a)).1))

/-- SETBITS (R123). -/
def execSetbits (a m : Byte) (s : State) : Host.Outcome State Fault Refusal :=
  .next ((s.begin.onBus (Bus.setBits s.params (regAddr a) m)).complete .unit)

/-- CLRBITS (R124). -/
def execClrbits (a m : Byte) (s : State) : Host.Outcome State Fault Refusal :=
  .next ((s.begin.onBus (Bus.clearBits s.params (regAddr a) m)).complete .unit)

/-- ANTON (R125). -/
def execAnton (s : State) : Host.Outcome State Fault Refusal :=
  .next (((s.begin.onBus (Bus.antennaOn s.params)).setAntennaOn true).complete .unit)

/-- ANTOFF (R126). -/
def execAntoff (s : State) : Host.Outcome State Fault Refusal :=
  .next
    ((((s.begin.onBus (Bus.clearBits s.params s.params.reg.txControl Mask.antenna)).setAntennaOn false).setPhase
      .idle).complete .unit)

end Sys2Proof.Machine
end

