-- ==== Sys2Proof/Machine/Transceiver.lean ====
section
/-! DEFINITION. The Transceiver (42_transceiver.md): the exchange procedure in its two forms, and TRANSCEIVE. -/

namespace Sys2Proof.Machine

/-- A failed exchange: `{status: Err, data: [], bitLength: 0}` (R165). -/
def TransceiveResult.failed : TransceiveResult := { status := .err, data := [], bitLength := 0 }

/-- Steps 1 to 6 of R161, and step 7 for `Transceive`. -/
def Bus.startExchange (P : Params) (cmd : ExchangeCommand) (d : List Byte) (b : Bus) : Bus :=
  let loaded :=
    ((((b.write P.reg.comIEn (irqEnable P cmd)).clearBits P P.reg.comIrq P.mask.comIrqClr).setBits P P.reg.fifoLevel
      P.mask.flush).write P.reg.command P.cmd.idle).load P.reg.fifoData d
  let issued := loaded.write P.reg.command (cmd.code P)
  match cmd with
  | .transceive => issued.setBits P P.reg.bitFraming P.mask.startSend
  | .mfAuthent => issued

/-- Step 13 of R161: the level, the valid bits, then the bytes (R166 to R168). -/
def Bus.drainResponse (P : Params) (status : Status) (b : Bus) : TransceiveResult × Bus :=
  let lvl := b.read P P.reg.fifoLevel
  let vb := lvl.2.read P P.reg.control
  let bl := bitLengthOf (fifoLevelOf P lvl.1) (validBitsOf vb.1)
  let q := vb.2.drain P P.reg.fifoData (drainCount bl)
  ({ status := status, data := q.1, bitLength := bl }, q.2)

/-- Steps 11 to 13 of R161, after an observed poll whose last answer is `irq` (priority: R254). -/
def Bus.finishExchange (P : Params) (cmd : ExchangeCommand) (irq : Byte) (b : Bus) : TransceiveResult × Bus :=
  let e := b.read P P.reg.error
  if errorBitSet P e.1 then (TransceiveResult.failed, e.2)
  else if drains P cmd irq then e.2.drainResponse P (observedStatus P irq)
  else ({ status := observedStatus P irq, data := [], bitLength := 0 }, e.2)

/-- `pcdExchange(cmd, d)` (R161). -/
def Bus.pcdExchange (P : Params) (cmd : ExchangeCommand) (d : List Byte) (b : Bus) : TransceiveResult × Bus :=
  let p := (b.startExchange P cmd d).poll P P.reg.comIrq (exitMask P cmd) xcvPollBudget 0x00
  let stopped := p.bus.clearBits P P.reg.bitFraming P.mask.startSend
  if p.seen then stopped.finishExchange P cmd p.last else (TransceiveResult.failed, stopped)

/-- `pcdExchange(cmd, d)`: the result and the state after, in which only the bus differs. -/
def State.pcdExchange (cmd : ExchangeCommand) (d : List Byte) (s : State) : TransceiveResult × State :=
  let r := s.bus.pcdExchange s.params cmd d
  (r.1, s.onBus fun _ => r.2)

/-- TRANSCEIVE (R162); more than `MAX_FRAME` bytes are refused (R170). -/
def execTransceive (d : List Byte) (s : State) : Host.Outcome State Fault Refusal :=
  .next
    (if frameLengthOk s.params d then
      let r := s.begin.pcdExchange .transceive d
      r.2.complete (.transceive r.1)
    else s.refuse .frameTooLong)

end Sys2Proof.Machine
end

