-- ==== Sys2Proof/Machine/Protocol.lean ====
section
/-! DEFINITION. The ProtocolLayer (43_protocol.md): REQUEST, ANTICOLL, SELECT, AUTH, STOPCRYPTO, READ, WRITE, HALT,
READUID, INIT. -/

namespace Sys2Proof.Machine

/-! ### Shared procedures -/

/-- A frame sent with its CRC (41_crc_engine.md R148, R144): the CRC first, then the exchange. -/
def State.exchangeWithCrc (f : List Byte) (s : State) : TransceiveResult × State :=
  let c := s.calculateCrc f
  c.2.pcdExchange .transceive (withCrc f c.1)

/-- `request(mode)` (R190), as REQUEST and READUID perform it. -/
def State.request (mode : Byte) (s : State) : Option (List Byte) × State :=
  let r := (s.onBus (Bus.write s.params.reg.bitFraming shortFrame)).pcdExchange .transceive [mode]
  if requestOk r.1 then (some r.1.data, r.2.setPhase .requested) else (none, r.2.setPhase .idle)

/-- `anticoll()` (R195), as ANTICOLL and READUID perform it. -/
def State.anticoll (s : State) : Option Uid × State :=
  let r :=
    (s.onBus (Bus.write s.params.reg.bitFraming s.params.fullFrame)).pcdExchange .transceive (anticollFrame s.params)
  match anticollUid r.1 with
  | some u => (some u, r.2.setPhase .collisionResolved)
  | none => (none, r.2.setPhase .idle)

/-! ### The operations -/

/-- REQUEST (R190). -/
def execRequest (mode : Byte) (s : State) : Host.Outcome State Fault Refusal :=
  .next
    (let q := s.begin.request mode
     match q.1 with
     | some atqa => q.2.complete (.request .ok atqa)
     | none => q.2.complete (.request .err []))

/-- ANTICOLL (R195). -/
def execAnticoll (s : State) : Host.Outcome State Fault Refusal :=
  .next
    (let q := s.begin.anticoll
     match q.1 with
     | some u => q.2.complete (.anticoll .ok (some u))
     | none => q.2.complete (.anticoll .err none))

/-- SELECT's duty: the UID's checksum must validate (R200, R253). -/
def uidBroken (u : List Byte) : Bool := (validUid u).isNone

/-- SELECT (R200). -/
def execSelect (u : List Byte) (s : State) : Host.Outcome State Fault Refusal :=
  .next
    (if selectLengthOk u then
      let r := (s.begin.markHostDuty (uidBroken u)).exchangeWithCrc (selectFrame s.params u)
      if selectOk r.1 then (r.2.setPhase .selected).complete (.sak (r.1.data.headD 0))
      else (r.2.setPhase .idle).complete (.sak noCardSak)
    else s.refuse .badArgument)

/-- AUTH (R205): `Status2` is read whatever the exchange gave. -/
def execAuth (mode blk : Byte) (key uid : List Byte) (s : State) : Host.Outcome State Fault Refusal :=
  .next
    (if authLengthsOk key uid then
      let r := s.begin.pcdExchange .mfAuthent (authFrame mode blk key uid)
      let s2 := r.2.bus.read s.params s.params.reg.status2
      let after := r.2.onBus fun _ => s2.2
      if authOk s.params r.1 s2.1 then ((after.setAuthenticated true).setPhase .authenticated).complete .authOk
      else after.complete .authenticationError
    else s.refuse .badArgument)

/-- STOPCRYPTO's phase edge (R208). -/
def stopCryptoPhase : Phase → Phase
  | .authenticated => .selected
  | p => p

/-- STOPCRYPTO (R208). -/
def execStopcrypto (s : State) : Host.Outcome State Fault Refusal :=
  .next
    ((((s.begin.onBus (Bus.clearBits s.params s.params.reg.status2 s.params.mask.crypto1On)).setAuthenticated
      false).setPhase (stopCryptoPhase s.phase)).complete .unit)

/-- READ (R210); reading without authentication is performed and marked (R253). -/
def execRead (blk : Byte) (s : State) : Host.Outcome State Fault Refusal :=
  .next
    (let r := (s.begin.markHostDuty (!s.authenticated)).exchangeWithCrc (readFrame s.params blk)
     r.2.complete (if readOk r.1 then .block r.1.data else .readError blk))

/-- WRITE (R212): phase 2 only after phase 1's acknowledgement. -/
def execWrite (blk : Byte) (d : List Byte) (s : State) : Host.Outcome State Fault Refusal :=
  .next
    (if writeLengthOk d then
      let r1 := (s.begin.markHostDuty (!s.authenticated)).exchangeWithCrc (writeFrame s.params blk)
      if ack r1.1 then
        let r2 := r1.2.exchangeWithCrc d
        r2.2.complete (if ack r2.1 then .unit else .writeError blk .two)
      else r1.2.complete (.writeError blk .one)
    else s.refuse .badArgument)

/-- HALT (R218): the phase becomes `Halted` whatever the status. -/
def execHalt (s : State) : Host.Outcome State Fault Refusal :=
  .next
    (let r := s.begin.exchangeWithCrc (haltFrame s.params)
     (r.2.setPhase .halted).complete (.haltStatus r.1.status))

/-- READUID (R222): `request(REQIDL)`, then, only on success, `anticoll()`; one completion. -/
def execReaduid (s : State) : Host.Outcome State Fault Refusal :=
  .next
    (let q := s.begin.request s.params.picc.reqidl
     match q.1 with
     | none => q.2.complete .noCard
     | some _ =>
       let a := q.2.anticoll
       match a.1 with
       | none => a.2.complete .noCard
       | some u => a.2.complete (.uid u))

/-- INIT (R225); the sticky marks are not cleared (10_state.md R29), and no wait follows the soft reset (R285). -/
def execInit (s : State) : Host.Outcome State Fault Refusal :=
  .next
    ((((((s.setAuthenticated false).setPhase .idle).setInitialised).onBus fun b =>
      ((b.write s.params.reg.command s.params.cmd.softReset).writePairs s.params.initSequence).antennaOn
        s.params).setAntennaOn true).complete .unit)

end Sys2Proof.Machine
end

