-- ==== Sys2Proof/Machine/Dispatch.lean ====
section
/-! DEFINITION. `exec`: one arm per instruction. -/

namespace Sys2Proof.Machine

/-- The meaning of every row of spec/opcode_table.json. -/
def exec (i : Instr) (s : State) : Host.Outcome State Fault Refusal :=
  match i with
  -- RegisterAccess, 40_register_access.md
  | .wreg a v => Sys2Proof.Machine.execWreg a v s
  | .rreg a => Sys2Proof.Machine.execRreg a s
  | .setbits a m => Sys2Proof.Machine.execSetbits a m s
  | .clrbits a m => Sys2Proof.Machine.execClrbits a m s
  | .anton => Sys2Proof.Machine.execAnton s
  | .antoff => Sys2Proof.Machine.execAntoff s
  -- CRCEngine, 41_crc_engine.md
  | .crc d => Sys2Proof.Machine.execCrc d s
  -- Transceiver, 42_transceiver.md
  | .transceive d => Sys2Proof.Machine.execTransceive d s
  -- ProtocolLayer, 43_protocol.md
  | .request mode => Sys2Proof.Machine.execRequest mode s
  | .anticoll => Sys2Proof.Machine.execAnticoll s
  | .select u => Sys2Proof.Machine.execSelect u s
  | .auth mode blk key uid => Sys2Proof.Machine.execAuth mode blk key uid s
  | .stopcrypto => Sys2Proof.Machine.execStopcrypto s
  | .read blk => Sys2Proof.Machine.execRead blk s
  | .write blk d => Sys2Proof.Machine.execWrite blk d s
  | .halt => Sys2Proof.Machine.execHalt s
  | .readuid => Sys2Proof.Machine.execReaduid s
  | .init => Sys2Proof.Machine.execInit s
  -- bus transactions, 30_encoding.md R83, R84
  | .busW a v => Sys2Proof.Machine.execBusW a v s
  | .busR a => Sys2Proof.Machine.execBusR a s
  -- chip command codes, R92
  | .pcdIdle => Sys2Proof.Machine.execPcdIdle s
  | .pcdCalcCRC => Sys2Proof.Machine.execPcdCalcCRC s
  | .pcdTransmit => Sys2Proof.Machine.execPcdTransmit s
  | .pcdReceive => Sys2Proof.Machine.execPcdReceive s
  | .pcdTransceive => Sys2Proof.Machine.execPcdTransceive s
  | .pcdMFAuthent => Sys2Proof.Machine.execPcdMFAuthent s
  | .pcdSoftReset => Sys2Proof.Machine.execPcdSoftReset s
  -- card command bytes, R94
  | .piccReqidl => Sys2Proof.Machine.execPiccReqidl s
  | .piccReqall => Sys2Proof.Machine.execPiccReqall s
  | .piccAnticoll => Sys2Proof.Machine.execPiccAnticoll s
  | .piccSelect u lo hi => Sys2Proof.Machine.execPiccSelect u lo hi s
  | .piccAuth1a blk key uid => Sys2Proof.Machine.execPiccAuth1a blk key uid s
  | .piccAuth1b blk key uid => Sys2Proof.Machine.execPiccAuth1b blk key uid s
  | .piccRead blk lo hi => Sys2Proof.Machine.execPiccRead blk lo hi s
  | .piccWrite blk lo hi => Sys2Proof.Machine.execPiccWrite blk lo hi s
  | .piccDecrement => Sys2Proof.Machine.execPiccDecrement s
  | .piccIncrement => Sys2Proof.Machine.execPiccIncrement s
  | .piccRestore => Sys2Proof.Machine.execPiccRestore s
  | .piccTransfer => Sys2Proof.Machine.execPiccTransfer s
  | .piccHalt lo hi => Sys2Proof.Machine.execPiccHalt lo hi s

end Sys2Proof.Machine
end

