-- ==== Sys2Proof/Machine/Fetch.lean ====
section
/-! DEFINITION. Taking the next instruction from what is presented to the engine (00_scope.md R5: the host issues one
operation at a time; 20_memory.md R74: nothing is fetched from a memory). -/

namespace Sys2Proof.Machine

/-- What the engine finds presented. -/
inductive Fetched where
  /-- Nothing: the engine waits for the host. -/
  | idle
  /-- An instruction, and the state with it taken. -/
  | run (i : Instr) (s : State)
  /-- Host bytes that spell no operation (30_encoding.md R89), and the state with them taken. -/
  | illegal (s : State)
  /-- Bytes of another space that nothing emits. -/
  | reserved (p : Port)

/-- What stays presented when `bs` is left of the first byte string. -/
def requeue (p : Port) (bs : List Byte) (rest : List Presented) : List Presented :=
  if bs.isEmpty then rest else .bytes p bs :: rest

/-- The next instruction presented. Bytes after an instruction are the next one's (R86: "reads the selector, then
exactly the bytes the table lists"). -/
def fetch (s : State) : Fetched :=
  match s.pending with
  | [] => .idle
  | .term i :: rest => .run i { s with pending := rest }
  | .bytes p bs :: rest =>
    match decode s.params p bs with
    | .ok (i, tail) => .run i { s with pending := requeue p tail rest }
    | .error e =>
      match p with
      | .host => .illegal { s with pending := requeue .host (afterIllegal e bs) rest }
      | .bus => .reserved .bus
      | .chipCommand => .reserved .chipCommand
      | .cardFrame => .reserved .cardFrame

/-- `bs` presented in space `p`, ahead of everything else. -/
def State.present (p : Port) (bs : List Byte) (s : State) : State := { s with pending := .bytes p bs :: s.pending }

end Sys2Proof.Machine
end

