-- ==== Sys2Proof/Machine/Step.lean ====
section
/-! DEFINITION. One step of the machine: one host operation to completion, or one transaction form presented. -/

namespace Sys2Proof.Machine

/-- One step. With nothing presented the engine waits, its state unchanged (log entry 8); host bytes that spell no
operation are refused as R89 says. -/
def step (s : State) : Host.Outcome State Fault Refusal :=
  match fetch s with
  | .idle => .next s
  | .run i t => exec i t
  | .illegal t => .next (t.refuse .illegalOperation)
  | .reserved p => .refused (.reservedEncoding p)

/-- The opcode-table word `w` presented in its space, ahead of everything else (the fixed interface's name). -/
def State.withFetchWord (s : State) (nbits w : Nat) : State :=
  s.present (tableLayout nbits w).1 (tableInstrBytes nbits w)

end Sys2Proof.Machine
end

