-- ==== Sys2Proof/Machine/Assembler.lean ====
section
/-! DEFINITION. The assembler syntax of 30_encoding.md R90: one host operation per line, read into its abstract form
(R88), so that a text can be presented to the engine. Where R90 leaves a lexical detail open the choice is in log
entry 9. -/

namespace Sys2Proof.Machine

/-! ### Words -/

/-- A token of a line. -/
inductive Token where
  | word (w : List Char)
  | comma
  | opening
  | closing
  deriving DecidableEq, Repr

/-- The word read so far, its last character first, as a token. -/
def wordToken : List Char → List Token
  | [] => []
  | w => [.word w.reverse]

/-- The tokens of a line; `;` starts a comment. `w` is the word read so far, its last character first. -/
def tokens (w : List Char) : List Char → List Token
  | [] => wordToken w
  | c :: cs =>
    if c = ';' then wordToken w
    else if c = ' ' ∨ c = '\t' then wordToken w ++ tokens [] cs
    else if c = ',' then wordToken w ++ .comma :: tokens [] cs
    else if c = '[' then wordToken w ++ .opening :: tokens [] cs
    else if c = ']' then wordToken w ++ .closing :: tokens [] cs
    else tokens (c :: w) cs

/-! ### Numbers and names -/

/-- A decimal digit's value. -/
def decimalDigit (c : Char) : Option Nat :=
  if 48 ≤ c.toNat ∧ c.toNat ≤ 57 then some (c.toNat - 48) else none

/-- A hexadecimal digit's value, in either case. -/
def hexDigit (c : Char) : Option Nat :=
  if 48 ≤ c.toNat ∧ c.toNat ≤ 57 then some (c.toNat - 48)
  else if 65 ≤ c.toNat ∧ c.toNat ≤ 70 then some (c.toNat - 55)
  else if 97 ≤ c.toNat ∧ c.toNat ≤ 102 then some (c.toNat - 87)
  else none

/-- Decimal digits, most significant first, after the value read so far. -/
def decimalFrom (n : Nat) : List Char → Option Nat
  | [] => some n
  | c :: cs =>
    match decimalDigit c with
    | some d => decimalFrom (10 * n + d) cs
    | none => none

/-- A number from 0 to 255 as a byte. -/
def byteOfNat (n : Nat) : Option Byte := if n < 256 then some (BitVec.ofNat 8 n) else none

/-- A byte: `0xNN`, or a decimal number. -/
def parseByte : List Char → Option Byte
  | ['0', 'x', h, l] =>
    match hexDigit h, hexDigit l with
    | some a, some b => byteOfNat (16 * a + b)
    | _, _ => none
  | [] => none
  | w => (decimalFrom 0 w).bind byteOfNat

/-- The value a word names in a table. -/
def lookupName (w : List Char) : List (List Char × Byte) → Option Byte
  | [] => none
  | e :: es => if w = e.1 then some e.2 else lookupName w es

/-- The register names (10_state.md R30), each with its address under the parameter `REG_ADDR`. -/
def registerNames (P : Params) : List (List Char × Byte) :=
  ([("Command".toList, P.reg.command), ("ComIEn".toList, P.reg.comIEn), ("DivIEn".toList, P.reg.divIEn),
    ("ComIrq".toList, P.reg.comIrq), ("DivIrq".toList, P.reg.divIrq), ("Error".toList, P.reg.error),
    ("Status1".toList, P.reg.status1), ("Status2".toList, P.reg.status2), ("FIFOData".toList, P.reg.fifoData)] ++
  [("FIFOLevel".toList, P.reg.fifoLevel), ("WaterLevel".toList, P.reg.waterLevel), ("Control".toList, P.reg.control),
    ("BitFraming".toList, P.reg.bitFraming), ("Coll".toList, P.reg.coll), ("Mode".toList, P.reg.mode),
    ("TxMode".toList, P.reg.txMode), ("RxMode".toList, P.reg.rxMode), ("TxControl".toList, P.reg.txControl)] ++
  [("TxAuto".toList, P.reg.txAuto), ("CRCResultH".toList, P.reg.crcResultH),
    ("CRCResultL".toList, P.reg.crcResultL), ("TMode".toList, P.reg.tMode), ("TPrescaler".toList, P.reg.tPrescaler),
    ("TReloadH".toList, P.reg.tReloadH), ("TReloadL".toList, P.reg.tReloadL)]).map fun e => (e.1, wide e.2)

/-- The card command names an operand may be written with (R90, R94). -/
def cardCommandNames (P : Params) : List (List Char × Byte) :=
  [("REQIDL".toList, P.picc.reqidl), ("REQALL".toList, P.picc.reqall), ("AUTH1A".toList, P.picc.auth1a),
    ("AUTH1B".toList, P.picc.auth1b)]

/-- A register operand: a name or a number. -/
def parseRegister (P : Params) (w : List Char) : Option Byte :=
  match lookupName w (registerNames P) with
  | some a => some a
  | none => parseByte w

/-- A card command operand: a name or a number. -/
def parseMode (P : Params) (w : List Char) : Option Byte :=
  match lookupName w (cardCommandNames P) with
  | some m => some m
  | none => parseByte w

/-! ### Operands -/

/-- An operand: one word, or the words of a bracketed sequence. -/
inductive Operand where
  | one (w : List Char)
  | seq (ws : List (List Char))
  deriving DecidableEq, Repr

/-- The words of a bracketed sequence after `[`, at least one, and the tokens after `]`. -/
def sequenceWords : List Token → Option (List (List Char) × List Token)
  | .word w :: .closing :: ts => some ([w], ts)
  | .word w :: .comma :: ts =>
    match sequenceWords ts with
    | some (ws, rest) => some (w :: ws, rest)
    | none => none
  | _ => none

/-- One operand, and the tokens after it. -/
def parseOperand : List Token → Option (Operand × List Token)
  | .word w :: ts => some (.one w, ts)
  | .opening :: .closing :: ts => some (.seq [], ts)
  | .opening :: ts =>
    match sequenceWords ts with
    | some (ws, rest) => some (.seq ws, rest)
    | none => none
  | _ => none

/-- The operands of a line, at most `n` of them, separated by commas. -/
def parseOperands : Nat → List Token → Option (List Operand)
  | _, [] => some []
  | 0, _ :: _ => none
  | n + 1, ts =>
    match parseOperand ts with
    | some (o, []) => some [o]
    | some (o, .comma :: t :: rest) =>
      match parseOperands n (t :: rest) with
      | some os => some (o :: os)
      | none => none
    | _ => none

/-- The bytes of a sequence. -/
def parseBytes : List (List Char) → Option (List Byte)
  | [] => some []
  | w :: ws =>
    match parseByte w, parseBytes ws with
    | some b, some bs => some (b :: bs)
    | _, _ => none

/-! ### Lines -/

/-- The operations that take no operand. -/
def operationWithout (m : List Char) : Option Instr :=
  if m = "ANTON".toList then some .anton
  else if m = "ANTOFF".toList then some .antoff
  else if m = "ANTICOLL".toList then some .anticoll
  else if m = "STOPCRYPTO".toList then some .stopcrypto
  else if m = "HALT".toList then some .halt
  else if m = "READUID".toList then some .readuid
  else if m = "INIT".toList then some .init
  else none

/-- The operations that take one word. -/
def operationOne (P : Params) (m w : List Char) : Option Instr :=
  if m = "RREG".toList then (parseRegister P w).map .rreg
  else if m = "REQUEST".toList then (parseMode P w).map .request
  else if m = "READ".toList then (parseByte w).map .read
  else none

/-- The operations that take one sequence. -/
def operationSequence (m : List Char) (ws : List (List Char)) : Option Instr :=
  if m = "CRC".toList then (parseBytes ws).map .crc
  else if m = "TRANSCEIVE".toList then (parseBytes ws).map .transceive
  else if m = "SELECT".toList then (parseBytes ws).map .select
  else none

/-- The operations that take a register and a byte. -/
def operationTwo (P : Params) (m a v : List Char) : Option Instr :=
  match parseRegister P a, parseByte v with
  | some a, some v =>
    if m = "WREG".toList then some (.wreg a v)
    else if m = "SETBITS".toList then some (.setbits a v)
    else if m = "CLRBITS".toList then some (.clrbits a v)
    else none
  | _, _ => none

/-- WRITE's operands: a block and a sequence. -/
def operationWrite (m b : List Char) (ws : List (List Char)) : Option Instr :=
  match parseByte b, parseBytes ws with
  | some blk, some d => if m = "WRITE".toList then some (.write blk d) else none
  | _, _ => none

/-- AUTH's operands: a card command, a block and two sequences. -/
def operationAuth (P : Params) (m mode b : List Char) (ks us : List (List Char)) : Option Instr :=
  match parseMode P mode, parseByte b, parseBytes ks, parseBytes us with
  | some mode, some blk, some key, some uid => if m = "AUTH".toList then some (.auth mode blk key uid) else none
  | _, _, _, _ => none

/-- The operation of a mnemonic and its operands. -/
def operationOf (P : Params) (m : List Char) : List Operand → Option Instr
  | [] => operationWithout m
  | [.one w] => operationOne P m w
  | [.seq ws] => operationSequence m ws
  | [.one a, .one v] => operationTwo P m a v
  | [.one b, .seq ws] => operationWrite m b ws
  | [.one mode, .one b, .seq ks, .seq us] => operationAuth P m mode b ks us
  | _ => none

/-- What a line of the assembler text is. -/
inductive AsmLine where
  /-- Nothing but blanks and a comment. -/
  | blank
  /-- One operation, in its abstract form. -/
  | operation (i : Instr)
  /-- No line of R90's syntax. -/
  | illFormed
  deriving DecidableEq, Repr

/-- One line of the assembler text. -/
def parseLine (P : Params) (line : List Char) : AsmLine :=
  match tokens [] line with
  | [] => .blank
  | .word m :: ts =>
    match parseOperands 4 ts with
    | some os =>
      match operationOf P m os with
      | some i => .operation i
      | none => .illFormed
    | none => .illFormed
  | _ => .illFormed

/-- A text, line after line: the operations it spells; none if a line is ill formed. -/
def assemble (P : Params) : List (List Char) → Option (List Instr)
  | [] => some []
  | l :: ls =>
    match parseLine P l, assemble P ls with
    | .blank, rest => rest
    | .operation i, some is => some (i :: is)
    | _, _ => none

/-- Operations presented to the engine after everything already presented (00_scope.md R5). -/
def State.presentTerms (is : List Instr) (s : State) : State := { s with pending := s.pending ++ is.map .term }

end Sys2Proof.Machine
end

