-- ==== Sys2Proof/Safety.lean ====
section
/-! DEFINITION. The terms the claims are stated in: which transactions an operation performed, the shape of a CRC and of
an exchange on the bus, the state an operation leaves, the invariant of the engine, and the chip laws a claim may assume
by name (93_implementation_defined.md part 3). The counts, lengths and masks the document fixes are written out here from
the spec, apart from Machine/Params.lean; the parameters are taken as an argument, `P` (00_scope.md R8). -/

namespace Sys2Proof.Machine

/-! ### What was performed on the bus -/

/-- The chip's answers among some transactions, in order. -/
def readValues : List Transaction → List Byte
  | [] => []
  | .write _ _ :: ts => readValues ts
  | .read _ v :: ts => v :: readValues ts

/-- The bus lines of one transaction: two bytes under one chip-select bracket (30_encoding.md R81, R83, R84). -/
def Transaction.wireEvents (P : Params) : Transaction → List WireEvent
  | .write a v => [.csAssert, .send (busAddrByte false a), .send v, .csRelease]
  | .read a v => [.csAssert, .send (busAddrByte true a), .exchange P.dummyTx v, .csRelease]

/-- The chip's answer to the `k`-th read from here: supplied, or a free value. -/
def Bus.answerAt (b : Bus) (k : Nat) : Byte :=
  if h : k < b.answers.length then b.answers[k] else Config.chipAnswer (b.draws + (k - b.answers.length))

/-- From `b` the engine performed exactly the transactions `ts`, in order, and each read took the next answer of the
chip; `b'` is the bus after. -/
structure Performed (P : Params) (b : Bus) (ts : List Transaction) (b' : Bus) : Prop where
  trace : b'.trace = b.trace ++ ts
  wire : b'.wire = b.wire ++ ts.flatMap (Transaction.wireEvents P)
  values : readValues ts = (List.range (readValues ts).length).map b.answerAt
  answers : b'.answers = b.answers.drop (readValues ts).length
  draws : b'.draws = b.draws + ((readValues ts).length - b.answers.length)

/-- SETBITS of `m` on a register that answers `v` (40_register_access.md R123). -/
def setRun (a : RegAddr) (m v : Byte) : List Transaction := [.read a v, .write a (v ||| m)]

/-- CLRBITS of `m` on a register that answers `v` (R124): `~m` is `0xFF ^ m`. -/
def clearRun (a : RegAddr) (m v : Byte) : List Transaction := [.read a v, .write a (v &&& (0xFF ^^^ m))]

/-- A poll's answers (41_crc_engine.md R143): observed, it ends with its only answer that has an exit bit, the last
permitted read included; exhausted, it made `budget` reads and none has one. -/
def PollRun (budget : Nat) (mask : Byte) (polls : List Byte) (seen : Bool) : Prop :=
  (seen = true → ∃ before last, polls = before ++ [last] ∧ before.length < budget ∧ (∀ v ∈ before, v &&& mask = 0) ∧
    last &&& mask ≠ 0) ∧
  (seen = false → polls.length = budget ∧ ∀ v ∈ polls, v &&& mask = 0)

/-- The transactions of `calculateCrc(d)` (R141 steps 1 to 7). -/
def CrcRun (P : Params) (d : List Byte) (ts : List Transaction) (lo hi : Byte) (seen : Bool) : Prop :=
  ∃ (v0 v1 : Byte) (polls : List Byte), PollRun 255 P.mask.divIrqCrc polls seen ∧
    ts = clearRun P.reg.divIrq P.mask.divIrqCrc v0 ++ setRun P.reg.fifoLevel P.mask.flush v1 ++
      d.map (.write P.reg.fifoData) ++ [.write P.reg.command P.cmd.calcCrc] ++ polls.map (.read P.reg.divIrq) ++
      [.read P.reg.crcResultL lo, .read P.reg.crcResultH hi]

/-- `bitLength(lvl, vb)` on natural numbers (42_transceiver.md R167): the formula, with 0 where it is negative (the
subtraction of natural numbers stops there), and at most 128. -/
def bitLengthSpec (lvl vb : Nat) : Nat := if vb = 0 then min (8 * lvl) 128 else min (8 * lvl + vb - 8) 128

/-- What follows the poll and the StartSend clear of an exchange (R161 steps 10 to 13; R165, R168, R254): the
transactions `tail` and the result, from the outcome of the poll and its last answer. -/
def ExchangeEnd (P : Params) (cmd : ExchangeCommand) (seen : Bool) (irq : Byte) (tail : List Transaction)
    (r : TransceiveResult) : Prop :=
  if seen = false then tail = [] ∧ r = { status := .err, data := [], bitLength := 0 }
  else ∃ e : Byte,
    if e &&& P.mask.err ≠ 0 then
      tail = [.read P.reg.error e] ∧ r = { status := .err, data := [], bitLength := 0 }
    else if cmd = .transceive ∧ irq &&& P.mask.rxInd ≠ 0 then
      ∃ (l c : Byte) (data : List Byte),
        tail = [.read P.reg.error e, .read P.reg.fifoLevel l, .read P.reg.control c] ++
          data.map (.read P.reg.fifoData) ∧
        r.status = (if irq &&& P.mask.timerIrq ≠ 0 then .noTag else .ok) ∧ r.data = data ∧
        r.bitLength = bitLengthSpec (l &&& P.mask.fifoLevel).toNat (c &&& 0x07).toNat ∧
        8 * data.length < r.bitLength + 8 ∧ r.bitLength ≤ 8 * data.length
    else tail = [.read P.reg.error e] ∧
      r = { status := if irq &&& P.mask.timerIrq ≠ 0 then .noTag else .ok, data := [], bitLength := 0 }

/-- The exit mask of an exchange's poll (R164, R169). -/
abbrev exitBits (P : Params) (cmd : ExchangeCommand) : Byte :=
  if cmd = .transceive then P.mask.xcvExit else P.mask.authExit

/-- The transactions of `pcdExchange(cmd, d)` with the poll's answers `polls`, and its result (R161). -/
def ExchangeRunWith (P : Params) (cmd : ExchangeCommand) (d polls : List Byte) (ts : List Transaction)
    (r : TransceiveResult) : Prop :=
  ∃ (v0 v1 v3 : Byte) (start tail : List Transaction) (seen : Bool),
    (cmd = .transceive → ∃ v2, start = setRun P.reg.bitFraming P.mask.startSend v2) ∧
    (cmd = .mfAuthent → start = []) ∧
    PollRun 2000 (exitBits P cmd) polls seen ∧
    ExchangeEnd P cmd seen (polls.getLastD 0) tail r ∧
    ts = [.write P.reg.comIEn (if cmd = .transceive then P.mask.irqEnXcv else P.mask.irqEnAuth)] ++
      clearRun P.reg.comIrq P.mask.comIrqClr v0 ++ setRun P.reg.fifoLevel P.mask.flush v1 ++
      [.write P.reg.command P.cmd.idle] ++ d.map (.write P.reg.fifoData) ++
      [.write P.reg.command (if cmd = .transceive then P.cmd.transceive else P.cmd.mfAuthent)] ++ start ++
      polls.map (.read P.reg.comIrq) ++ clearRun P.reg.bitFraming P.mask.startSend v3 ++ tail

/-- The transactions of `pcdExchange(cmd, d)` and its result (R161). -/
def ExchangeRun (P : Params) (cmd : ExchangeCommand) (d : List Byte) (ts : List Transaction) (r : TransceiveResult) :
    Prop :=
  ∃ polls, ExchangeRunWith P cmd d polls ts r

/-- A frame sent with its CRC appended, low byte then high, the CRC computed first over exactly the frame
(41_crc_engine.md R144, R148). `seen` says whether the CRC's poll was observed. -/
def FrameRun (P : Params) (f : List Byte) (ts : List Transaction) (r : TransceiveResult) (seen : Bool) : Prop :=
  ∃ (lo hi : Byte) (crc xch : List Transaction),
    CrcRun P f crc lo hi seen ∧ ExchangeRun P .transceive (f ++ [lo, hi]) xch r ∧ ts = crc ++ xch

/-- REQUEST's framing write and exchange (43_protocol.md R190). -/
def RequestRun (P : Params) (mode : Byte) (ts : List Transaction) (r : TransceiveResult) : Prop :=
  ∃ xch, ExchangeRun P .transceive [mode] xch r ∧ ts = .write P.reg.bitFraming 0x07 :: xch

/-- ANTICOLL's framing write and exchange (R195). -/
def AnticollRun (P : Params) (ts : List Transaction) (r : TransceiveResult) : Prop :=
  ∃ xch, ExchangeRun P .transceive [P.picc.anticoll.1, P.picc.anticoll.2] xch r ∧
    ts = .write P.reg.bitFraming P.fullFrame :: xch

/-- `antennaOn()`'s transactions (40_register_access.md R125). -/
def AntennaOnRun (P : Params) (ts : List Transaction) : Prop :=
  ∃ v : Byte, (v &&& 0x03 = 0x03 ∧ ts = [.read P.reg.txControl v]) ∨
    (v &&& 0x03 ≠ 0x03 ∧ ∃ w : Byte, ts = .read P.reg.txControl v :: setRun P.reg.txControl 0x03 w)

/-- INIT's transactions (43_protocol.md R225). -/
def InitRun (P : Params) (ts : List Transaction) : Prop :=
  ∃ ant, AntennaOnRun P ant ∧ ts = [.write P.reg.command P.cmd.softReset] ++
    P.initSequence.map (fun p => .write p.1 p.2) ++ ant

/-- ANTICOLL's verdict on an exchange result (R195): the UID if the status is `Ok` and the response is 5 bytes of which
the fifth is the XOR of the first four. -/
def anticollVerdict (r : TransceiveResult) : Option Uid :=
  match r.status, r.data with
  | .ok, [b0, b1, b2, b3, b4] => if b0 ^^^ b1 ^^^ b2 ^^^ b3 = b4 then some ⟨b0, b1, b2, b3, b4⟩ else none
  | _, _ => none

/-- The acknowledgement test (R213). -/
def Acked (r : TransceiveResult) : Prop :=
  r.status = .ok ∧ r.bitLength = 4 ∧ ∃ b, r.data = [b] ∧ b &&& 0x0F = 0x0A

/-! ### What an operation leaves -/

/-- `s` after a completed host operation other than INIT that returned `r`, left the bus at `b` and changed nothing
else: `S.opIndex` counts it, and an operation before INIT, or a broken precondition `duty`, sets `S.hostDuty`. -/
def State.after (s : State) (b : Bus) (r : Result) (duty : Bool) : State :=
  { s with
    bus := b
    opIndex := s.opIndex + 1
    results := s.results ++ [r]
    hostDuty := s.hostDuty || !s.initialised || duty }

/-- `s` after a refused host operation (60_exceptions.md R252). -/
def State.afterRefusal (s : State) (reason : RefusalReason) : State :=
  { s with refused := true, opIndex := s.opIndex + 1, results := s.results ++ [.refused reason] }

/-- The reason an instruction's operand lengths are refused for, if they are (R252: R145, R170, R200, R207, R215). -/
def refusalOf (P : Params) : Instr → Option RefusalReason
  | .crc d | .transceive d => if P.maxFrame < d.length then some .frameTooLong else none
  | .select u => if u.length ≠ 5 then some .badArgument else none
  | .auth _ _ key uid => if key.length ≠ 6 ∨ uid.length < 4 then some .badArgument else none
  | .write _ d => if d.length ≠ 16 then some .badArgument else none
  | _ => none

/-- The precondition an accepted host operation breaks, if any (R253, R282). -/
def dutyBroken (i : Instr) (s : State) : Bool :=
  match i with
  | .init => false
  | .read _ | .write _ _ => !s.initialised || !s.authenticated
  | .select [b0, b1, b2, b3, b4] => !s.initialised || b0 ^^^ b1 ^^^ b2 ^^^ b3 != b4
  | _ => !s.initialised

/-- `S.phase` after a host operation that returned `r` (10_state.md R25). SELECT's returned byte does not tell success
from failure when it is 0 (93_implementation_defined.md I-11). -/
def PhaseEdge (i : Instr) (r : Result) (p p' : Phase) : Prop :=
  match i, r with
  | _, .refused _ => p' = p
  | .init, _ => p' = .idle
  | .request _, .request .ok _ => p' = .requested
  | .request _, _ => p' = .idle
  | .anticoll, .anticoll .ok _ => p' = .collisionResolved
  | .anticoll, _ => p' = .idle
  | .select _, .sak v => p' = .selected ∨ (p' = .idle ∧ v = 0)
  | .auth _ _ _ _, .authOk => p' = .authenticated
  | .stopcrypto, _ => p' = if p = .authenticated then .selected else p
  | .halt, _ => p' = .halted
  | .readuid, .uid _ => p' = .collisionResolved
  | .readuid, _ => p' = .idle
  | .antoff, _ => p' = .idle
  | _, _ => p' = p

/-! ### Runs -/

/-- A list of host operations executed one after another, each complete before the next starts (20_memory.md R71). -/
def runOperations : List Instr → State → State
  | [], s => s
  | i :: is, s =>
    match exec i s with
    | .next t => runOperations is t
    | _ => s

/-- What a run is observed by (70_reset_and_hazards.md R287): the results in order, the final state and the trace. -/
structure Observation where
  results : List Result
  final : State
  trace : List Transaction
  deriving DecidableEq, Repr

/-- The observation of a run: a finite list of host operations from a fresh instance (R287). -/
def observe (is : List Instr) : Observation :=
  let t := runOperations is State.reset
  { results := t.results, final := t, trace := t.bus.trace }

/-- A run the model gives a meaning to (R287): no operation was refused. -/
def Observation.meaningful (o : Observation) : Prop := o.final.refused = false

/-- `n` steps, as long as each answers a next state. -/
def steps : Nat → State → Host.Outcome State Fault Refusal
  | 0, s => .next s
  | n + 1, s =>
    match step s with
    | .next t => steps n t
    | .fault f => .fault f
    | .refused r => .refused r

/-! ### The engine's invariant -/

/-- What holds of the engine at reset and after every step. -/
structure EngineInv (s : State) : Prop where
  /-- The bus lines carried exactly the trace: two bytes in each chip-select bracket (R81, R122). -/
  wire : s.bus.wire = s.bus.trace.flatMap (Transaction.wireEvents s.params)
  /-- One result was returned for each operation counted (10_state.md R27). -/
  counted : s.results.length = s.opIndex
  /-- The phase `Authenticated` is reached only with a confirmed session (R22, R25). -/
  session : s.phase = .authenticated → s.authenticated = true
  /-- An operation before INIT left its mark, unless it was refused (R253, R282). -/
  uninitialised : s.initialised = false → s.opIndex ≠ 0 → s.hostDuty = true ∨ s.refused = true
  /-- A refusal was returned exactly if `S.refused` is set (R252). -/
  refusals : s.refused = true ↔ ∃ reason, Result.refused reason ∈ s.results
  /-- Each name of the parameter tables has a value of its own (R30, R92, R94). -/
  parameters : s.params.legal = true

/-! ### Chip laws (assumptions a claim names, never rules of the engine) -/

/-- Where in a run the answers stand of which a chip law may be held. -/
structure Occasion where
  /-- The trace up to them. -/
  before : List Transaction
  /-- The host operation they are answers to. -/
  op : Instr
  /-- `S.authenticated` when that operation starts. -/
  authenticated : Bool
  deriving DecidableEq, Repr

/-- The answers to `op` in the state `s`, from its start. -/
def State.occasion (s : State) (op : Instr) : Occasion :=
  { before := s.bus.trace, op := op, authenticated := s.authenticated }

/-- The answers after the transactions `ts` of the same operation. -/
def Occasion.after (o : Occasion) (ts : List Transaction) : Occasion := { o with before := o.before ++ ts }

/-- An exchange in the trace ended exhausted (42_transceiver.md R164, R165): its whole run is there, and no answer of its
poll has a bit of its own exit mask. -/
def ExhaustedExchange (P : Params) (before : List Transaction) : Prop :=
  ∃ (cmd : ExchangeCommand) (d polls : List Byte) (ts : List Transaction) (r : TransceiveResult),
    ExchangeRunWith P cmd d polls ts r ∧ (∀ v ∈ polls, v &&& exitBits P cmd = 0) ∧ ts <:+: before

/-- A chip law may be held of answers: not after a reserved code was written to `Command` (93_implementation_defined.md
I-9), not after an exchange that ended exhausted (I-20), and not in a READ or WRITE without authentication (I-13). In each
of these cases every answer is any value, under no law. Log entry 16. -/
structure LawsApply (P : Params) (o : Occasion) : Prop where
  commands : ∀ v, Transaction.write P.reg.command v ∈ o.before → v ∈ P.cmd.codes
  exchanges : ¬ExhaustedExchange P o.before
  session : (∃ blk d, o.op = .read blk ∨ o.op = .write blk d) → o.authenticated = true

/-- A transaction that may change one of the chip registers `regs`: a write to it, or a soft reset, which leaves any value
there (30_encoding.md R92; 93_implementation_defined.md I-1). -/
def Transaction.changes (P : Params) (regs : List RegAddr) : Transaction → Prop
  | .write a v => a ∈ regs ∨ (a = P.reg.command ∧ v = P.cmd.softReset)
  | .read _ _ => False

/-- The registers `regs` are unchanged by these transactions: none writes one or resets the chip. A rewrite of the value
one should hold counts as a change, since nothing says that a write took effect (70_reset_and_hazards.md R285; I-8). -/
def RegsUnchanged (P : Params) (regs : List RegAddr) (ts : List Transaction) : Prop := ∀ t ∈ ts, ¬t.changes P regs

/-- In the trace `before` INIT was performed, and all that may have changed `regs` are INITs. -/
def RegsOnlyByInit (P : Params) (regs : List RegAddr) (before : List Transaction) : Prop :=
  ∃ runs : List (List Transaction), before = runs.flatten ∧ (∀ ts ∈ runs, InitRun P ts ∨ RegsUnchanged P regs ts) ∧
    ∃ ts ∈ runs, InitRun P ts

/-- "`Mode` unchanged" (41_crc_engine.md R147) by these transactions. -/
def ModeUnchanged (P : Params) (ts : List Transaction) : Prop := RegsUnchanged P [P.reg.mode] ts

/-- "No other operation changed `Mode`" (R146) in the trace `before`. -/
def ModeOnlyByInit (P : Params) (before : List Transaction) : Prop := RegsOnlyByInit P [P.reg.mode] before

/-- The chip law that R285 asks a claim to name: the chip's `Mode` holds `mode`, the last byte `INIT_SEQUENCE` writes to
it. -/
def InitTookEffect (P : Params) (mode : Byte) : Prop :=
  ((P.initSequence.filter fun p => p.1 = P.reg.mode).getLast?.map Prod.snd) = some mode

/-- `CRC_A_LAW` (R146) of one CRC over `d` on the occasion `o`, `mode` being what the chip's `Mode` holds then, which the
engine cannot see: if `CRCPreset`, bits 1:0 of `mode`, is 01, no operation but INIT changed `Mode` and the poll was
observed, the answers are `CRC_A(d)`, low byte then high. Log entry 13. -/
def CrcALaw (P : Params) (mode : Byte) (o : Occasion) (d : List Byte) (lo hi : Byte) (seen : Bool) : Prop :=
  LawsApply P o → mode &&& 0x03 = 0x01 → ModeOnlyByInit P o.before → seen = true →
    lo = (crcA d).setWidth 8 ∧ hi = (crcA d >>> 8).setWidth 8

/-- `CRC_DET` (R147) of two CRCs, on the occasions `o` and then `o'`: two observed CRCs over equal bytes, with `Mode`
unchanged between them, give equal pairs. Log entry 13. -/
def CrcDet (P : Params) (o o' : Occasion) (d d' : List Byte) (c c' : Byte × Byte) (seen seen' : Bool) : Prop :=
  LawsApply P o → LawsApply P o' → (∃ between, o'.before = o.before ++ between ∧ ModeUnchanged P between) → d = d' →
    seen = true → seen' = true → c = c'

/-- The registers of the chip's timer (10_state.md R50). -/
def timerRegs (P : Params) : List RegAddr := [P.reg.tMode, P.reg.tPrescaler, P.reg.tReloadH, P.reg.tReloadL]

/-- "The chip timer programmed by INIT" (42_transceiver.md R172), as the trace `before` shows it: `INIT_SEQUENCE` names
every timer register, and INIT alone wrote them. Log entry 16. -/
def TimerOnlyByInit (P : Params) (before : List Transaction) : Prop :=
  (∀ a ∈ timerRegs P, a ∈ P.initSequence.map Prod.fst) ∧ RegsOnlyByInit P (timerRegs P) before

/-- The transactions `ts` leave `TxLastBits` at 7: each write to `BitFraming` writes bits 2:0 back as 7 straight after a
read of it, as an exchange's steps 7 and 9 and SETBITS and CLRBITS do. -/
def FramingKept (P : Params) (ts : List Transaction) : Prop :=
  ∀ a v b, ts = a ++ .write P.reg.bitFraming v :: b →
    v &&& 0x07 = 0x07 ∧ ∃ w, a.getLast? = some (.read P.reg.bitFraming w)

/-- A frame sent after the trace `before` goes out under the `TxLastBits`, 7, left from a REQUEST (R290; I-17): REQUEST
was performed, its exchange kept them, and nothing since has written `BitFraming` anew. Log entry 16. -/
def FramingLeft (P : Params) (before : List Transaction) : Prop :=
  ∃ (mode : Byte) (r : TransceiveResult) (pre req post : List Transaction),
    RequestRun P mode req r ∧ before = pre ++ req ++ post ∧
    (∀ v, Transaction.write P.reg.bitFraming v ∈ req → v &&& 0x07 = 0x07) ∧ FramingKept P post

/-- A chip law may be held of an exchange's answers: as any law, and its frame does not go out under the `TxLastBits` left
from a REQUEST, whose every answer is any value (I-17). Log entry 16. -/
structure XcvLawsApply (P : Params) (o : Occasion) : Prop where
  laws : LawsApply P o
  framing : ¬FramingLeft P o.before

/-- What `NO_CARD_TIMER` supposes of the world around the engine, which the engine cannot see. Log entry 16. -/
structure Surroundings where
  /-- A card is in the field during the exchange. -/
  cardInField : Bool
  /-- The chip's timer is set as `INIT_SEQUENCE` writes it: those writes took effect (R285). -/
  timerTookEffect : Bool
  deriving DecidableEq, Repr

/-- `XCV_ENDS` (42_transceiver.md R172) of the poll answers of one `Transceive` exchange on the occasion `o`: the poll is
observed. That the law speaks of this form alone and not of `MFAuthent`, which skips step 7, is the model's reading (log
entry 15). -/
def XcvEnds (P : Params) (o : Occasion) (polls : List Byte) : Prop :=
  XcvLawsApply P o → ∃ v ∈ polls, v &&& exitBits P .transceive ≠ 0

/-- `NO_CARD_TIMER` (R172) of the poll answers of one exchange of either form on the occasion `o`: with no card in the
field and the chip's timer programmed by INIT, the answer that ends the poll has `TimerIRq` set and `RxIRq` (10_state.md
R35, bit 5) clear. That the timer runs out within the 2000 reads, and that its flag stands in the very answer that ends
the poll, `IdleIRq` not having ended it first, the spec leaves open (R297; 91_not_in_source.md N38): it is the model's
choice (log entry 14). -/
def NoCardTimer (P : Params) (w : Surroundings) (cmd : ExchangeCommand) (o : Occasion) (polls : List Byte) : Prop :=
  XcvLawsApply P o → w.cardInField = false → w.timerTookEffect = true → TimerOnlyByInit P o.before →
    ∃ v, polls.getLast? = some v ∧ v &&& exitBits P cmd ≠ 0 ∧ v &&& P.mask.timerIrq ≠ 0 ∧ v &&& 0x20 = 0

/-- `FIFO_HONEST` (R172) of one drained exchange with status `status` on the occasion `o`: the level and valid-bit answers
and the bytes describe what the card sent, `card`, whose last byte has `vb` valid bits (0 for all 8). Where the status is
`NoTag` the drained bytes are any value, under no law (I-3). Log entry 16. That it covers every drained byte, SELECT's
second and third, which I-18 makes any value, among them, is the model's choice (log entry 17). -/
def FifoHonest (P : Params) (o : Occasion) (status : Status) (card : List Byte) (vb : Nat) (level validBits : Byte)
    (drained : List Byte) : Prop :=
  XcvLawsApply P o → status = .ok →
    (level &&& P.mask.fifoLevel).toNat = card.length ∧ (validBits &&& 0x07).toNat = vb ∧
      drained = card.take drained.length

end Sys2Proof.Machine
end

