-- ==== Sys2Proof/Certificates/Slice0/Obligations.lean ====
section
/-! DEFINITION. The statements for the provers, in the terms of Sys2Proof/Safety.lean. A statement about the machine is
about every state, and so about every value of the parameters of 00_scope.md R8, which a state holds; the values the spec
gives them are in `ResetIsTheFreshInstance`. -/

open Sys2Proof Sys2Proof.Machine

/-! ### Encoding -/

/-- Decoding an encoded well-formed instruction of any encoding space gives it back, with the bytes after it
(30_encoding.md R81 to R88, R92, R94, R95), under any parameters; for a chip command or a card frame, under parameters
whose codes tell the rows apart, as the default ones do. -/
def Obligations.DecodeOfEncode : Prop :=
  ∀ (P : Params) (i : Instr) (rest : List Byte), i.wellFormed = true →
    i.port = .host ∨ i.port = .bus ∨ P.legal = true → decode P i.port (encode P i ++ rest) = .ok (i, rest)

/-- The other direction, under any parameters: bytes that decode are the encoding of the well-formed instruction they
decode to, followed by the rest. -/
def Obligations.DecodedBytesAreTheEncoding : Prop :=
  ∀ (P : Params) (p : Port) (bs : List Byte) (i : Instr) (rest : List Byte), decode P p bs = .ok (i, rest) →
    i.port = p ∧ i.wellFormed = true ∧ encode P i ++ rest = bs

/-- Words written out from the tables of R87, R83, R84, R92 and R94 decode to what they stand for, under the default
parameters. -/
def Obligations.WrittenOutWordsDecode : Prop :=
  decode .default .host [0x01, 0x01, 0x0F] = .ok (.wreg 0x01 0x0F, []) ∧
  decode .default .host [0x04, 0x08, 0x08, 0x05] = .ok (.clrbits 0x08 0x08, [0x05]) ∧
  decode .default .host [0x07, 0x02, 0x30, 0x04] = .ok (.crc [0x30, 0x04], []) ∧
  decode .default .host [0x08, 0x01, 0x26] = .ok (.transceive [0x26], []) ∧
  decode .default .host [0x0C, 0x60, 0x04, 1, 2, 3, 4, 5, 6, 7, 8, 9, 10] =
    .ok (.auth 0x60 0x04 [1, 2, 3, 4, 5, 6] [7, 8, 9, 10], []) ∧
  decode .default .host [0x0E, 0x04] = .ok (.read 0x04, []) ∧
  decode .default .bus [0x02, 0x0F] = .ok (.busW 0x01 0x0F, []) ∧
  decode .default .bus [0x90, 0x00] = .ok (.busR 0x08, []) ∧
  decode .default .chipCommand [0x0C] = .ok (.pcdTransceive, []) ∧
  decode .default .cardFrame [0x93, 0x20] = .ok (.piccAnticoll, []) ∧
  decode .default .cardFrame [0x50, 0x00, 0x57, 0xCD] = .ok (.piccHalt 0x57 0xCD, [])

/-- Illegal host encodings (R89): a selector of 0x00 or 0x13..0xFF spells no operation, nor does a byte string shorter
than its selector's length. -/
def Obligations.IllegalHostBytesSpellNothing : Prop :=
  (∀ (P : Params) (sel : Byte) (args : List Byte), sel = 0x00 ∨ 0x13 ≤ sel.toNat →
    decode P .host (sel :: args) = .error (.unknownSelector sel)) ∧
  (∀ (P : Params) (i : Instr) (n : Nat), i.port = .host → i.wellFormed = true → n < (encode P i).length →
    ∃ e, decode P .host ((encode P i).take n) = .error e)

/-- The address byte of a bus transaction (R82), for a register address given as any natural number. -/
def Obligations.AddressByteAssembly : Prop :=
  (∀ (n : Nat) (isRead : Bool), addrByte (BitVec.ofNat 8 n) isRead =
    BitVec.ofNat 8 (((n <<< 1) &&& 0x7E) ||| (if isRead then 0x80 else 0x00))) ∧
  (∀ (n : Nat) (isRead : Bool), (addrByte (BitVec.ofNat 8 n) isRead).getLsbD 7 = isRead ∧
    (∀ k < 6, (addrByte (BitVec.ofNat 8 n) isRead).getLsbD (k + 1) = n.testBit k) ∧
    (addrByte (BitVec.ofNat 8 n) isRead).getLsbD 0 = false) ∧
  (∀ (n : Nat) (isRead : Bool), addrByte (BitVec.ofNat 8 (n + 64)) isRead = addrByte (BitVec.ofNat 8 n) isRead) ∧
  addrByte 0x01 false = 0x02 ∧ addrByte 0x01 true = 0x82 ∧ addrByte 0x3F true = 0xFE ∧ addrByte 0x40 false = 0x00 ∧
  addrByte 0xFF false = 0x7E

/-! ### Steps -/

/-- A step runs the instruction presented: bytes that decode to `i` run `i` with the bytes after it left presented, an
abstract instruction runs as it is, and with nothing presented nothing changes. R5 and R86 say that the host issues
one operation at a time and that a decoder reads exactly the bytes the table lists; that what is presented stands in a
list, in four spaces, that the bytes left over stay first in it, and that a step with nothing presented waits, is the
model's choice (log entries 3, 8). -/
def Obligations.StepRunsThePresentedInstruction : Prop :=
  (∀ (s : State) (p : Port) (bs tail : List Byte) (rest : List Presented) (i : Instr),
    s.pending = .bytes p bs :: rest → decode s.params p bs = .ok (i, tail) →
    step s = exec i { s with pending := if tail = [] then rest else .bytes p tail :: rest }) ∧
  (∀ (s : State) (rest : List Presented) (i : Instr), s.pending = .term i :: rest →
    step s = exec i { s with pending := rest }) ∧
  (∀ s : State, s.pending = [] → step s = .next s)

/-- Host bytes that spell no operation are refused (R89, R252): no transaction, only `S.refused`, `S.opIndex` and the
returned `Refused(IllegalOperation)`. How many bytes are used up is the model's choice (log entry 6). -/
def Obligations.StepRefusesIllegalHostBytes : Prop :=
  ∀ (s : State) (bs : List Byte) (rest : List Presented) (e : DecodeError),
    s.pending = .bytes .host bs :: rest → decode s.params .host bs = .error e →
    ∃ left, step s = .next ({ s with pending := left }.afterRefusal .illegalOperation) ∧
      ((∃ b, e = .unknownSelector b) ∧ bs.drop 1 ≠ [] → left = .bytes .host (bs.drop 1) :: rest) ∧
      (¬(∃ b, e = .unknownSelector b) ∨ bs.drop 1 = [] → left = rest)

/-- Every instruction answers a next state, whatever its operands and the state. Of a host operation the spec says so:
a failure is a value that is returned, and a refused operation goes on too (60_exceptions.md R251, R252, R257). That
the bus forms, the chip command codes and the card frames run when they are presented by themselves, and so answer a
next state, is the model's choice (log entry 7). -/
def Obligations.EveryInstructionAnswersANextState : Prop :=
  ∀ (i : Instr) (s : State), ∃ t, exec i s = .next t

/-- A step answers a next state, but for bytes of the bus, command or frame space that decode to nothing. That such
bytes stop the step is the model's choice (log entry 10), and so is that a step with nothing presented answers its own
state (log entry 8); for host operations and host bytes it is R89, R251, R252 and R257 that leave no stop. -/
def Obligations.StepStopsOnlyOnReservedBytes : Prop :=
  ∀ s : State, (∃ t, step s = .next t) ∨
    ∃ (p : Port) (bs : List Byte) (rest : List Presented) (e : DecodeError),
      s.pending = .bytes p bs :: rest ∧ p ≠ .host ∧ decode s.params p bs = .error e ∧
      step s = .refused (.reservedEncoding p)

/-- Bytes of the bus, command or frame space that decode to nothing stop the step, and these decode to nothing: a
reserved chip command code (R93), an address byte with bit 0 set (R85), a read whose second byte is not `DUMMY_TX`
(R84), a first byte that begins no card frame (R94), a two-byte header of no row (R94), and a string that ends too
soon. The spec says that nothing emits such bytes; that they stop the step is the model's choice (log entry 10). -/
def Obligations.ReservedBytesStopTheStep : Prop :=
  (∀ (s : State) (p : Port) (bs : List Byte) (rest : List Presented) (e : DecodeError), p ≠ .host →
    s.pending = .bytes p bs :: rest → decode s.params p bs = .error e → step s = .refused (.reservedEncoding p)) ∧
  (∀ (P : Params) (c : Byte) (bs : List Byte), c ∉ P.cmd.codes →
    decode P .chipCommand (c :: bs) = .error (.reservedCommand c)) ∧
  (∀ (P : Params) (c v : Byte) (bs : List Byte), c.getLsbD 0 = true →
    decode P .bus (c :: v :: bs) = .error (.reservedBus c)) ∧
  (∀ (P : Params) (c v : Byte) (bs : List Byte), c.getLsbD 0 = false → c.getLsbD 7 = true → v ≠ P.dummyTx →
    decode P .bus (c :: v :: bs) = .error (.reservedBus v)) ∧
  (∀ (P : Params) (c : Byte) (bs : List Byte), c ∉ P.picc.oneByte → c ∉ P.picc.twoByte.map Prod.fst →
    decode P .cardFrame (c :: bs) = .error (.unknownFrame c)) ∧
  (∀ (P : Params) (c c2 : Byte) (bs : List Byte), c ∉ P.picc.oneByte → c ∈ P.picc.twoByte.map Prod.fst →
    (c, c2) ∉ P.picc.twoByte → decode P .cardFrame (c :: c2 :: bs) = .error (.unknownFrame c2)) ∧
  (∀ (P : Params) (i : Instr) (n : Nat), i.port ≠ .host → i.wellFormed = true → P.legal = true →
    n < (encode P i).length → ∃ e, decode P i.port ((encode P i).take n) = .error e)

/-- Operations presented to an engine with nothing else presented run one per step, in the order presented, each as it
would run alone (20_memory.md R71: operations happen in the order the host issues them, each complete before the
next); the observation of a run from the fresh instance is what those steps leave (70_reset_and_hazards.md R287). R5
has the host issue one operation at a time: that several stand presented, in a list, is the model's choice (log entry
3). -/
def Obligations.PresentedOperationsRunInOrder : Prop :=
  (∀ (is : List Instr) (s : State), s.pending = [] →
    steps is.length (s.presentTerms is) = .next (runOperations is s)) ∧
  (∀ (is : List Instr) (t : State), steps is.length (State.reset.presentTerms is) = .next t →
    observe is = { results := t.results, final := t, trace := t.bus.trace })

/-! ### RegisterAccess -/

/-- WREG (40_register_access.md R120): one write of `v` to register `a mod 64`; `unit`; nothing else changes. -/
def Obligations.WregPerformsOneWrite : Prop :=
  ∀ (a v : Byte) (s : State), ∃ t, exec (.wreg a v) s = .next t ∧
    Performed s.params s.bus [.write (a.setWidth 6) v] t.bus ∧ t = s.after t.bus .unit false

/-- RREG (R121): one read of register `a mod 64`; the chip's answer is the result; nothing else changes. -/
def Obligations.RregReturnsTheAnswer : Prop :=
  ∀ (a : Byte) (s : State), ∃ v t, exec (.rreg a) s = .next t ∧
    Performed s.params s.bus [.read (a.setWidth 6) v] t.bus ∧ t = s.after t.bus (.byte v) false

/-- SETBITS (R123), selector 0x03: a read that answers `v`, then a write of `v | m`, even where no bit changes. -/
def Obligations.SetbitsReadsThenWritesTheOr : Prop :=
  (∀ (P : Params) (a m : Byte) (tail : List Byte),
    decode P .host (0x03 :: a :: m :: tail) = .ok (.setbits a m, tail)) ∧
  ∀ (a m : Byte) (s : State), ∃ v t, exec (.setbits a m) s = .next t ∧
    Performed s.params s.bus [.read (a.setWidth 6) v, .write (a.setWidth 6) (v ||| m)] t.bus ∧
    t = s.after t.bus .unit false

/-- CLRBITS (R124), selector 0x04: a read that answers `v`, then a write of `v & (0xFF ^ m)`, even where no bit
changes. -/
def Obligations.ClrbitsReadsThenWritesTheAndNot : Prop :=
  (∀ (P : Params) (a m : Byte) (tail : List Byte),
    decode P .host (0x04 :: a :: m :: tail) = .ok (.clrbits a m, tail)) ∧
  ∀ (a m : Byte) (s : State), ∃ v t, exec (.clrbits a m) s = .next t ∧
    Performed s.params s.bus [.read (a.setWidth 6) v, .write (a.setWidth 6) (v &&& (0xFF ^^^ m))] t.bus ∧
    t = s.after t.bus .unit false

/-- ANTON (R125): one read of `TxControl`, and a SETBITS of 0x03 with a read of its own unless both bits are set;
`S.antennaOn` becomes true on both paths. -/
def Obligations.AntonSetsTheAntennaBits : Prop :=
  ∀ s : State, ∃ ts t, exec .anton s = .next t ∧ AntennaOnRun s.params ts ∧ Performed s.params s.bus ts t.bus ∧
    t = { s.after t.bus .unit false with antennaOn := true }

/-- ANTOFF (R126): a CLRBITS of 0x03 on `TxControl`, always; `S.antennaOn` false, the phase `Idle`. -/
def Obligations.AntoffClearsTheAntennaBits : Prop :=
  ∀ s : State, ∃ v t, exec .antoff s = .next t ∧
    Performed s.params s.bus [.read s.params.reg.txControl v,
      .write s.params.reg.txControl (v &&& (0xFF ^^^ 0x03))] t.bus ∧
    t = { s.after t.bus .unit false with antennaOn := false, phase := .idle }

/-! ### CRCEngine -/

/-- CRC of at most `MAX_FRAME` bytes (41_crc_engine.md R141 to R143, R145): the seven steps, the poll of at most 255
reads, the two result bytes whatever ended it, and the mark of an exhausted poll. -/
def Obligations.CrcDrivesTheCoprocessor : Prop :=
  ∀ (d : List Byte) (s : State), d.length ≤ s.params.maxFrame → ∃ ts lo hi seen t, exec (.crc d) s = .next t ∧
    CrcRun s.params d ts lo hi seen ∧ Performed s.params s.bus ts t.bus ∧
    t = { s.after t.bus (.crcPair lo hi) false with crcTimeout := s.crcTimeout || !seen }

/-- A poll (R143), on any register, mask and budget: it ends at the first answer with an exit bit, the last permitted
read included, or after `budget` reads without one; its last answer is the one tested afterwards. -/
def Obligations.PollEndsAtTheFirstExitBit : Prop :=
  ∀ (P : Params) (a : RegAddr) (mask : Byte) (budget : Nat) (b : Bus), ∃ polls,
    PollRun budget mask polls (b.poll P a mask budget 0x00).seen ∧
    (b.poll P a mask budget 0x00).last = polls.getLastD 0x00 ∧
    Performed P b (polls.map (.read a)) (b.poll P a mask budget 0x00).bus

/-- Two CRCs of the same bytes (R141), from any two states. The first clause is under the chip law `CRC_A_LAW` (R146,
an assumption about the chip): where it holds of both CRCs, the chip's `Mode`, whatever it is, has `CRCPreset` at 01 at
each, no operation but INIT changed `Mode` in either trace and both polls are observed, both runs return the same pair,
the low and the high byte of `CRC_A(d)`. The second is under `CRC_DET` (R147, an assumption too): where the second run
comes after the first, nothing between them writes `Mode` or resets the chip and both polls are observed, both return
equal pairs. How "changed" and "unchanged" are read off the trace (log entry 13), and the further premise `LawsApply` of
both clauses, that no reserved chip command was written and no exchange ended exhausted, after which no law is held (log
entry 16), are the model's reading. -/
def Obligations.CrcUnderItsChipLawsReturnsTheSamePair : Prop :=
  ∀ (d : List Byte) (s s' : State), d.length ≤ s.params.maxFrame → d.length ≤ s'.params.maxFrame →
    ∃ ts lo hi seen t ts' lo' hi' seen' t',
      exec (.crc d) s = .next t ∧ CrcRun s.params d ts lo hi seen ∧ Performed s.params s.bus ts t.bus ∧
      exec (.crc d) s' = .next t' ∧ CrcRun s'.params d ts' lo' hi' seen' ∧
      Performed s'.params s'.bus ts' t'.bus ∧
      t.results = s.results ++ [.crcPair lo hi] ∧ t'.results = s'.results ++ [.crcPair lo' hi'] ∧
      (∀ mode mode' : Byte, LawsApply s.params (s.occasion (.crc d)) → LawsApply s'.params (s'.occasion (.crc d)) →
        mode &&& 0x03 = 0x01 → mode' &&& 0x03 = 0x01 → ModeOnlyByInit s.params s.bus.trace →
        ModeOnlyByInit s'.params s'.bus.trace → seen = true → seen' = true →
        CrcALaw s.params mode (s.occasion (.crc d)) d lo hi seen →
        CrcALaw s'.params mode' (s'.occasion (.crc d)) d lo' hi' seen' →
        t.results = s.results ++ [.crcPair ((crcA d).setWidth 8) ((crcA d >>> 8).setWidth 8)] ∧
        t'.results = s'.results ++ [.crcPair ((crcA d).setWidth 8) ((crcA d >>> 8).setWidth 8)]) ∧
      (∀ between, s'.bus.trace = s.bus.trace ++ between → LawsApply s.params (s.occasion (.crc d)) →
        LawsApply s.params (s'.occasion (.crc d)) → ModeUnchanged s.params between → seen = true → seen' = true →
        CrcDet s.params (s.occasion (.crc d)) (s'.occasion (.crc d)) d d (lo, hi) (lo', hi') seen seen' →
        ∃ r, t.results = s.results ++ [r] ∧ t'.results = s'.results ++ [r])

/-! ### Transceiver -/

/-- TRANSCEIVE of at most `MAX_FRAME` bytes (42_transceiver.md R161, R162, R170): the exchange's steps and result, and
nothing else changes. -/
def Obligations.TransceiveRunsTheExchange : Prop :=
  ∀ (d : List Byte) (s : State), d.length ≤ s.params.maxFrame → ∃ ts r t, exec (.transceive d) s = .next t ∧
    ExchangeRun s.params .transceive d ts r ∧ Performed s.params s.bus ts t.bus ∧
    t = s.after t.bus (.transceive r) false

/-- What every exchange result satisfies, whatever the chip answers (R171). -/
def Obligations.ExchangeResultInvariants : Prop :=
  ∀ (P : Params) (cmd : ExchangeCommand) (d : List Byte) (b : Bus),
    (b.pcdExchange P cmd d).1.data.length ≤ 16 ∧ (b.pcdExchange P cmd d).1.bitLength ≤ 128 ∧
    (b.pcdExchange P cmd d).1.data.length = ((b.pcdExchange P cmd d).1.bitLength + 7) / 8 ∧
    ((b.pcdExchange P cmd d).1.status = .err →
      (b.pcdExchange P cmd d).1.data = [] ∧ (b.pcdExchange P cmd d).1.bitLength = 0) ∧
    (cmd = .mfAuthent → (b.pcdExchange P cmd d).1.data = [])

/-- The bit length (R167) for every level and valid-bit count: the integer formula, clamped at 0 and at 128, and the
rule's values. -/
def Obligations.BitLengthFormula : Prop :=
  (∀ lvl vb : Nat, lvl ≤ 127 → vb ≤ 7 →
    (bitLengthOf lvl vb : Int) =
      min (max (if vb ≠ 0 then ((lvl : Int) - 1) * 8 + (vb : Int) else (lvl : Int) * 8) 0) 128) ∧
  bitLengthOf 2 0 = 16 ∧ bitLengthOf 1 4 = 4 ∧ bitLengthOf 5 0 = 40 ∧ bitLengthOf 3 0 = 24 ∧ bitLengthOf 18 0 = 128 ∧
  bitLengthOf 17 3 = 128 ∧ bitLengthOf 16 0 = 128 ∧ bitLengthOf 0 0 = 0 ∧ bitLengthOf 0 5 = 0 ∧ bitLengthOf 64 7 = 128

/-- TRANSCEIVE under the chip laws of R172 (assumptions about the chip), where no error bit is answered: if `XCV_ENDS`
holds of its poll, the status is not `Err`; if `NO_CARD_TIMER` holds of it, no card is in the field and the chip's timer
is as INIT programmed it, the status is `NoTag`. That the timer's flag stands in the answer that ends the poll, which the
spec leaves open, is the model's choice (log entry 14). How "programmed by INIT" is read off the trace, and the premise
`XcvLawsApply`, that no reserved chip command was written, no exchange ended exhausted and no REQUEST's `TxLastBits` is
left, since no law is held then, are the model's reading (log entry 16). -/
def Obligations.TransceiveUnderChipLaws : Prop :=
  ∀ (d : List Byte) (s : State), d.length ≤ s.params.maxFrame → ∃ polls ts r t, exec (.transceive d) s = .next t ∧
    ExchangeRunWith s.params .transceive d polls ts r ∧ Performed s.params s.bus ts t.bus ∧
    t = s.after t.bus (.transceive r) false ∧
    (XcvLawsApply s.params (s.occasion (.transceive d)) →
      (∀ e, Transaction.read s.params.reg.error e ∈ ts → e &&& s.params.mask.err = 0) →
      (XcvEnds s.params (s.occasion (.transceive d)) polls → r.status ≠ .err) ∧
      ∀ w : Surroundings, w.cardInField = false → w.timerTookEffect = true →
        TimerOnlyByInit s.params s.bus.trace →
        NoCardTimer s.params w .transceive (s.occasion (.transceive d)) polls → r.status = .noTag)

/-! ### ProtocolLayer -/

/-- REQUEST (43_protocol.md R190, R191): `BitFraming` `SHORT_FRAME`, the one-byte exchange; it succeeds iff the status
is `Ok` with 16 bits, and then returns the two bytes. -/
def Obligations.RequestSendsAShortFrame : Prop :=
  ∀ (mode : Byte) (s : State), ∃ ts r t, exec (.request mode) s = .next t ∧ RequestRun s.params mode ts r ∧
    Performed s.params s.bus ts t.bus ∧
    if r.status = .ok ∧ r.bitLength = 16 then
      r.data.length = 2 ∧ t = { s.after t.bus (.request .ok r.data) false with phase := .requested }
    else t = { s.after t.bus (.request .err []) false with phase := .idle }

/-- ANTICOLL (R195): `BitFraming` `FULL_FRAME`, the exchange of the anticollision header; it succeeds iff the status
is `Ok`, the response is 5 bytes and the fifth is the XOR of the first four. -/
def Obligations.AnticollReturnsAValidUid : Prop :=
  ∀ s : State, ∃ ts r t, exec .anticoll s = .next t ∧ AnticollRun s.params ts r ∧ Performed s.params s.bus ts t.bus ∧
    match anticollVerdict r with
    | some u => t = { s.after t.bus (.anticoll .ok (some u)) false with phase := .collisionResolved }
    | none => t = { s.after t.bus (.anticoll .err none) false with phase := .idle }

/-- SELECT of 5 bytes (R200, R201): the SELECT header, 0x70 its second byte, `id` and `bcc` with its CRC; 24 bits with
`Ok` give the SAK and phase `Selected`, anything else 0 and `Idle`; a checksum that does not validate is sent all the
same and marked. -/
def Obligations.SelectSendsTheUid : Prop :=
  ∀ (b0 b1 b2 b3 b4 : Byte) (s : State), ∃ ts r seen t, exec (.select [b0, b1, b2, b3, b4]) s = .next t ∧
    FrameRun s.params [s.params.picc.select, 0x70, b0, b1, b2, b3, b4] ts r seen ∧ Performed s.params s.bus ts t.bus ∧
    if r.status = .ok ∧ r.bitLength = 24 then
      ∃ sak c1 c2, r.data = [sak, c1, c2] ∧
        t = { s.after t.bus (.sak sak) (b0 ^^^ b1 ^^^ b2 ^^^ b3 != b4) with
              phase := .selected, crcTimeout := s.crcTimeout || !seen }
    else
      t = { s.after t.bus (.sak 0) (b0 ^^^ b1 ^^^ b2 ^^^ b3 != b4) with
            phase := .idle, crcTimeout := s.crcTimeout || !seen }

/-- AUTH with a 6-byte key and a UID of at least 4 bytes (R205, R206): the `MFAuthent` exchange of the 12 bytes with
no CRC, then one read of `Status2`, always; it succeeds iff the status is `Ok` and the crypto bit is set, and a
failure leaves the session and the phase. -/
def Obligations.AuthConfirmsTheCryptoBit : Prop :=
  ∀ (mode blk : Byte) (key uid : List Byte) (s : State), key.length = 6 → 4 ≤ uid.length →
    ∃ xch r s2 t, exec (.auth mode blk key uid) s = .next t ∧
      ExchangeRun s.params .mfAuthent ([mode, blk] ++ key ++ uid.take 4) xch r ∧
      Performed s.params s.bus (xch ++ [.read s.params.reg.status2 s2]) t.bus ∧
      if r.status = .ok ∧ s2 &&& s.params.mask.crypto1On ≠ 0 then
        t = { s.after t.bus .authOk false with authenticated := true, phase := .authenticated }
      else t = s.after t.bus .authenticationError false

/-- STOPCRYPTO (R208), selector 0x0D: a CLRBITS of `CRYPTO1_ON` on `Status2` in any phase; the session ends, and
`Authenticated` goes back to `Selected`. -/
def Obligations.StopcryptoEndsTheSession : Prop :=
  (∀ (P : Params) (tail : List Byte), decode P .host (0x0D :: tail) = .ok (.stopcrypto, tail)) ∧
  ∀ s : State, ∃ v t, exec .stopcrypto s = .next t ∧
    Performed s.params s.bus [.read s.params.reg.status2 v,
      .write s.params.reg.status2 (v &&& (0xFF ^^^ s.params.mask.crypto1On))] t.bus ∧
    t = { s.after t.bus .unit false with
          authenticated := false, phase := if s.phase = .authenticated then .selected else s.phase }

/-- READ (R210): the READ byte and `blk` with their CRC; 16 bytes with `Ok` are the block, anything else
`ReadError(blk)`; without authentication it is performed and marked. -/
def Obligations.ReadReturnsTheBlock : Prop :=
  ∀ (blk : Byte) (s : State), ∃ ts r seen t, exec (.read blk) s = .next t ∧
    FrameRun s.params [s.params.picc.read, blk] ts r seen ∧ Performed s.params s.bus ts t.bus ∧
    t = { s.after t.bus (if r.status = .ok ∧ r.data.length = 16 then .block r.data else .readError blk)
            (!s.authenticated) with crcTimeout := s.crcTimeout || !seen }

/-- WRITE of 16 bytes (R212, R213, R215): phase 1 sends the WRITE byte and `blk` with their CRC; only if it is
acknowledged does phase 2 send the data with its CRC; the failing phase is reported. -/
def Obligations.WriteIsTwoAcknowledgedPhases : Prop :=
  ∀ (blk : Byte) (d : List Byte) (s : State), d.length = 16 →
    ∃ ts1 r1 seen1 t, exec (.write blk d) s = .next t ∧
      FrameRun s.params [s.params.picc.write, blk] ts1 r1 seen1 ∧
      ((¬Acked r1 ∧ Performed s.params s.bus ts1 t.bus ∧
          t = { s.after t.bus (.writeError blk .one) (!s.authenticated) with crcTimeout := s.crcTimeout || !seen1 }) ∨
        (Acked r1 ∧ ∃ ts2 r2 seen2, FrameRun s.params d ts2 r2 seen2 ∧
          Performed s.params s.bus (ts1 ++ ts2) t.bus ∧
          ((Acked r2 ∧ t = { s.after t.bus .unit (!s.authenticated) with
              crcTimeout := s.crcTimeout || !seen1 || !seen2 }) ∨
            (¬Acked r2 ∧ t = { s.after t.bus (.writeError blk .two) (!s.authenticated) with
              crcTimeout := s.crcTimeout || !seen1 || !seen2 }))))

/-- HALT (R218): the halt header with its CRC; the exchange's status is returned as it is, and the phase becomes
`Halted` whatever it is. -/
def Obligations.HaltReturnsTheStatus : Prop :=
  ∀ s : State, ∃ ts r seen t, exec .halt s = .next t ∧
    FrameRun s.params [s.params.picc.halt.1, s.params.picc.halt.2] ts r seen ∧ Performed s.params s.bus ts t.bus ∧
    t = { s.after t.bus (.haltStatus r.status) false with phase := .halted, crcTimeout := s.crcTimeout || !seen }

/-- READUID (R222): REQUEST of `REQIDL`, then, only if it succeeds, ANTICOLL; one operation is counted. -/
def Obligations.ReaduidIsRequestThenAnticoll : Prop :=
  ∀ s : State, ∃ ts1 r1 t, exec .readuid s = .next t ∧ RequestRun s.params s.params.picc.reqidl ts1 r1 ∧
    if r1.status = .ok ∧ r1.bitLength = 16 then
      ∃ ts2 r2, AnticollRun s.params ts2 r2 ∧ Performed s.params s.bus (ts1 ++ ts2) t.bus ∧
        match anticollVerdict r2 with
        | some u => t = { s.after t.bus (.uid u) false with phase := .collisionResolved }
        | none => t = { s.after t.bus .noCard false with phase := .idle }
    else Performed s.params s.bus ts1 t.bus ∧ t = { s.after t.bus .noCard false with phase := .idle }

/-- INIT (R225, R286): the soft reset, the `INIT_SEQUENCE` in order, the antenna; the session is reset from any state,
no sticky mark is cleared and no host duty is broken. -/
def Obligations.InitResetsTheSession : Prop :=
  ∀ s : State, ∃ ant t, exec .init s = .next t ∧ AntennaOnRun s.params ant ∧
    Performed s.params s.bus ([.write s.params.reg.command s.params.cmd.softReset] ++
      s.params.initSequence.map (fun p => .write p.1 p.2) ++ ant) t.bus ∧
    t = { s with
          bus := t.bus, opIndex := s.opIndex + 1, results := s.results ++ [.unit], antennaOn := true,
          authenticated := false, phase := .idle, initialised := true }

/-- The UID checksum (R196): only valid UIDs are returned by ANTICOLL's test, a valid one is, and flipping any one bit
of the checksum byte makes it fail. -/
def Obligations.ChecksumCatchesEverySingleBitError : Prop :=
  (∀ (b0 b1 b2 b3 : Byte) (bl : Nat),
    anticollUid ⟨.ok, [b0, b1, b2, b3, b0 ^^^ b1 ^^^ b2 ^^^ b3], bl⟩ =
      some ⟨b0, b1, b2, b3, b0 ^^^ b1 ^^^ b2 ^^^ b3⟩) ∧
  (∀ (b0 b1 b2 b3 : Byte) (bl k : Nat), k < 8 →
    anticollUid ⟨.ok, [b0, b1, b2, b3, b0 ^^^ b1 ^^^ b2 ^^^ b3 ^^^ BitVec.twoPow 8 k], bl⟩ = none) ∧
  (∀ (r : TransceiveResult) (u : Uid), anticollUid r = some u → u.id0 ^^^ u.id1 ^^^ u.id2 ^^^ u.id3 = u.bcc ∧
    r.data = [u.id0, u.id1, u.id2, u.id3, u.bcc] ∧ r.status = .ok)

/-- Under `CRC_A_LAW` (R146, an assumption about the chip), HALT sends its header and `CRC_A` of it, low byte then high,
whenever the chip's `Mode`, whatever it is, has `CRCPreset` at 01, no operation but INIT changed `Mode` and its CRC poll
is observed; with the default header that is `50 00 57 CD`. How "changed" is read off the trace (log entry 13), and the
further premise `LawsApply`, that no reserved chip command was written and no exchange ended exhausted, after which no
law is held (log entry 16), are the model's reading. -/
def Obligations.HaltFrameUnderCrcALaw : Prop :=
  ∀ (s : State) (h : List Byte), h = [s.params.picc.halt.1, s.params.picc.halt.2] →
    ∃ lo hi seen crc xch r t, exec .halt s = .next t ∧ CrcRun s.params h crc lo hi seen ∧
      ExchangeRun s.params .transceive (h ++ [lo, hi]) xch r ∧ Performed s.params s.bus (crc ++ xch) t.bus ∧
      (∀ mode : Byte, CrcALaw s.params mode (s.occasion .halt) h lo hi seen → LawsApply s.params (s.occasion .halt) →
        mode &&& 0x03 = 0x01 → ModeOnlyByInit s.params s.bus.trace → seen = true →
        lo = (crcA h).setWidth 8 ∧ hi = (crcA h >>> 8).setWidth 8 ∧
          (h = [0x50, 0x00] → h ++ [lo, hi] = [0x50, 0x00, 0x57, 0xCD]))

/-- Under `FIFO_HONEST` (R172, an assumption about the chip and the card), READ in a session and whose exchange is `Ok`
returns the first 16 bytes of a card answer of at least 16 whole bytes: the card's own CRC after them is dropped by the
128-bit clamp. The premise `XcvLawsApply`, that READ is in a session, since without one its every answer is any value
(I-13), that no reserved chip command was written, no exchange ended exhausted and no REQUEST's `TxLastBits` is left, is
the model's reading (log entry 16). The masks are such that every bit that ends the poll is a receive-indicating or a
timer bit, as the default ones are (R164, R168), so an `Ok` exchange drained. -/
def Obligations.ReadUnderFifoHonest : Prop :=
  ∀ (blk : Byte) (s : State),
    s.params.mask.xcvExit &&& ~~~(s.params.mask.rxInd ||| s.params.mask.timerIrq) = 0 →
    ∃ crc xch r t lo hi seen, exec (.read blk) s = .next t ∧
      CrcRun s.params [s.params.picc.read, blk] crc lo hi seen ∧
      ExchangeRun s.params .transceive [s.params.picc.read, blk, lo, hi] xch r ∧
      Performed s.params s.bus (crc ++ xch) t.bus ∧
      ∀ card : List Byte, 16 ≤ card.length → r.status = .ok →
        XcvLawsApply s.params ((s.occasion (.read blk)).after crc) →
        (∀ l c, [Transaction.read s.params.reg.fifoLevel l, .read s.params.reg.control c] <:+: xch →
          FifoHonest s.params ((s.occasion (.read blk)).after crc) r.status card 0 l c r.data) →
        t.results = s.results ++ [.block (card.take 16)]

/-! ### Refusals and results -/

/-- Wrong operand lengths (R252; R145, R170, R200, R207, R215): no transaction, nothing changes but `S.refused` and
`S.opIndex`, and `Refused(reason)` is returned; before INIT no host duty is marked either. -/
def Obligations.WrongLengthsAreRefused : Prop :=
  (∀ (d : List Byte) (s : State), s.params.maxFrame < d.length →
    exec (.crc d) s = .next (s.afterRefusal .frameTooLong)) ∧
  (∀ (d : List Byte) (s : State), s.params.maxFrame < d.length →
    exec (.transceive d) s = .next (s.afterRefusal .frameTooLong)) ∧
  (∀ (u : List Byte) (s : State), u.length ≠ 5 → exec (.select u) s = .next (s.afterRefusal .badArgument)) ∧
  (∀ (mode blk : Byte) (key uid : List Byte) (s : State), key.length ≠ 6 ∨ uid.length < 4 →
    exec (.auth mode blk key uid) s = .next (s.afterRefusal .badArgument)) ∧
  (∀ (blk : Byte) (d : List Byte) (s : State), d.length ≠ 16 →
    exec (.write blk d) s = .next (s.afterRefusal .badArgument))

/-- The numeric codes of R52 and R250. -/
def Obligations.ResultCodes : Prop :=
  Status.ok.code = 0x00 ∧ Status.noTag.code = 0x01 ∧ Status.err.code = 0x02 ∧
  Result.authenticationError.code = some 0x10 ∧ (∀ blk, (Result.readError blk).code = some 0x11) ∧
  (∀ blk ph, (Result.writeError blk ph).code = some 0x12) ∧ Result.noCard.code = some 0x13 ∧
  (∀ r : TransceiveResult, (Result.transceive r).code = some r.status.code)

/-! ### The other rows of the table -/

/-- The bus forms (30_encoding.md R83, R84): one transaction each. That a bus form presented by itself is that
transaction and nothing else, counted as no operation and marked as no broken duty before INIT, is the model's choice
(log entry 7). -/
def Obligations.BusFormsPerformOneTransaction : Prop :=
  (∀ (a : RegAddr) (v : Byte) (s : State), ∃ t, exec (.busW a v) s = .next t ∧
    Performed s.params s.bus [.write a v] t.bus ∧ t = { s with bus := t.bus }) ∧
  (∀ (a : RegAddr) (s : State), ∃ v t, exec (.busR a) s = .next t ∧
    Performed s.params s.bus [.read a v] t.bus ∧ t = { s with bus := t.bus })

/-- Each chip command code is one write of its byte to `Command`, which is where R92 says the codes are written. That
a code presented by itself is that write and nothing else, `Transmit` and `Receive` included, which no rule emits, and
is counted as no operation, is the model's choice (log entry 7). -/
def Obligations.ChipCommandsAreWrittenToCommand : Prop :=
  ∀ (s : State) (i : Instr) (code : Byte),
    (i, code) ∈ [(.pcdIdle, s.params.cmd.idle), (.pcdCalcCRC, s.params.cmd.calcCrc),
      (.pcdTransmit, s.params.cmd.transmit), (.pcdReceive, s.params.cmd.receive),
      (.pcdTransceive, s.params.cmd.transceive), (.pcdMFAuthent, s.params.cmd.mfAuthent),
      (Instr.pcdSoftReset, s.params.cmd.softReset)] →
    ∃ t, exec i s = .next t ∧ Performed s.params s.bus [.write s.params.reg.command code] t.bus ∧
      t = { s with bus := t.bus }

/-- Each card frame (R94, R95) is loaded into the FIFO first to last, the very bytes of its encoding, and no host
operation is counted. That this is what a card command byte does by itself is the model's choice (log entry 7). -/
def Obligations.CardFramesAreLoadedIntoTheFifo : Prop :=
  ∀ (i : Instr) (s : State), i.port = .cardFrame → ∃ t, exec i s = .next t ∧
    Performed s.params s.bus ((encode s.params i).map (.write s.params.reg.fifoData)) t.bus ∧
    t = { s with bus := t.bus }

/-! ### Rules of the whole machine -/

/-- `S.antennaOn` (10_state.md R21): true after ANTON and INIT, false after ANTOFF, otherwise unchanged, and no
operation reads it: with another value of it everything else comes out the same. -/
def Obligations.AntennaOnIsOnlyARecord : Prop :=
  (∀ (i : Instr) (s t : State), exec i s = .next t →
    t.antennaOn = match i with
      | .anton | .init => true
      | .antoff => false
      | _ => s.antennaOn) ∧
  (∀ (i : Instr) (s t : State) (v : Bool), exec i s = .next t →
    ∃ t', exec i { s with antennaOn := v } = .next t' ∧ { t' with antennaOn := v } = { t with antennaOn := v })

/-- `S.authenticated` (R22): AUTH sets it on success and leaves it on failure, STOPCRYPTO and INIT clear it, nothing
else writes it; it is read only by READ and WRITE, and only for `S.hostDuty`. -/
def Obligations.AuthenticatedNeverBlocks : Prop :=
  (∀ (i : Instr) (s t : State), exec i s = .next t →
    match i with
    | .auth _ _ _ _ => (t.results = s.results ++ [.authOk] ∧ t.authenticated = true) ∨
        (t.results ≠ s.results ++ [.authOk] ∧ t.authenticated = s.authenticated)
    | .stopcrypto | .init => t.authenticated = false
    | _ => t.authenticated = s.authenticated) ∧
  (∀ (i : Instr) (s t : State) (v : Bool), exec i s = .next t →
    ∃ t', exec i { s with authenticated := v } = .next t' ∧
      { t' with authenticated := v, hostDuty := v } = { t with authenticated := v, hostDuty := v } ∧
      ((∀ blk d, i ≠ .read blk ∧ i ≠ .write blk d) → t'.hostDuty = t.hostDuty))

/-- The session record is written by nothing but antenna on and off, AUTH, STOPCRYPTO and INIT (R23): REQUEST,
ANTICOLL, SELECT, HALT and READUID among the rest leave it. -/
def Obligations.SessionIsLeftByEveryOtherOperation : Prop :=
  ∀ (i : Instr) (s t : State), i ≠ .anton → i ≠ .antoff → i ≠ .init → i ≠ .stopcrypto →
    (∀ mode blk key uid, i ≠ .auth mode blk key uid) → exec i s = .next t →
    t.antennaOn = s.antennaOn ∧ t.authenticated = s.authenticated

/-- The phase (R24, R25, R201): every host operation moves it by the table's edge for its result, a refused one and
every form that is no host operation leave it. -/
def Obligations.PhaseFollowsTheTable : Prop :=
  (∀ (i : Instr) (s t : State), i.port = .host → exec i s = .next t →
    ∃ r, t.results = s.results ++ [r] ∧ PhaseEdge i r s.phase t.phase) ∧
  (∀ (i : Instr) (s t : State), i.port ≠ .host → exec i s = .next t → t.phase = s.phase)

/-- `S.hostDuty` (60_exceptions.md R253, R255, 70_reset_and_hazards.md R282): an accepted host operation sets it
exactly if it breaks a precondition, and a refused one leaves it. Every form that is no host operation leaves it,
before INIT too: that such a form is no operation of R253 and R282 is the model's choice (log entry 7). -/
def Obligations.HostDutyMarksBrokenPreconditions : Prop :=
  ∀ (i : Instr) (s t : State), exec i s = .next t →
    (i.port = .host → refusalOf s.params i = none → t.hostDuty = (s.hostDuty || dutyBroken i s)) ∧
    (i.port ≠ .host ∨ refusalOf s.params i ≠ none → t.hostDuty = s.hostDuty)

/-- Operations are counted (10_state.md R27): a host operation, refused or not, adds one to `S.opIndex` and returns
one result (R57). Every other form adds no count and no result: that it is no operation is the model's choice (log
entry 7). -/
def Obligations.EveryHostOperationIsCountedOnce : Prop :=
  ∀ (i : Instr) (s t : State), exec i s = .next t →
    (i.port = .host → t.opIndex = s.opIndex + 1 ∧ ∃ r, t.results = s.results ++ [r]) ∧
    (i.port ≠ .host → t.opIndex = s.opIndex ∧ t.results = s.results)

/-- Nothing clears a sticky mark or forgets history (R29): across any step the marks stay set, the trace, the bus
history and the results only grow at their ends, and `S.opIndex` never falls (R27). That no step changes the
parameters, `INIT_SEQUENCE` among them, is the model's choice (log entries 1, 4). -/
def Obligations.StepsNeverClearMarksOrHistory : Prop :=
  ∀ s t : State, step s = .next t →
    (s.initialised = true → t.initialised = true) ∧ (s.crcTimeout = true → t.crcTimeout = true) ∧
    (s.hostDuty = true → t.hostDuty = true) ∧ (s.refused = true → t.refused = true) ∧
    s.bus.trace <+: t.bus.trace ∧ s.bus.wire <+: t.bus.wire ∧ s.results <+: t.results ∧ s.opIndex ≤ t.opIndex ∧
    t.params = s.params

/-- What an instruction sends and returns is a function of the instruction, the parameters and the chip's answers
(00_scope.md R6, R8): two states that agree on these send the same transactions and return the same results, whatever
their session fields, phases, marks and histories (10_state.md R20 to R22, R26; 41_crc_engine.md R147). -/
def Obligations.SentAndReturnedIgnoreTheSession : Prop :=
  ∀ (i : Instr) (s s' t t' : State), s.bus.answers = s'.bus.answers → s.bus.draws = s'.bus.draws →
    s.params = s'.params → exec i s = .next t → exec i s' = .next t' →
    ∃ ts rs, Performed s.params s.bus ts t.bus ∧ Performed s'.params s'.bus ts t'.bus ∧
      t.results = s.results ++ rs ∧ t'.results = s'.results ++ rs

/-- Chip commands (30_encoding.md R92, R93; 60_exceptions.md R270), under parameters whose names have values of their
own: every byte the engine writes to `Command` is a listed code, and a host operation never writes `Transmit` or
`Receive`. Left out are the raw register operations WREG, SETBITS and CLRBITS and the bus form BUS-W, whose bytes the
host chooses, and INIT under an `INIT_SEQUENCE` that names `Command`. -/
def Obligations.OnlyListedChipCommandsAreWritten : Prop :=
  ∀ (i : Instr) (s t : State) (ts : List Transaction), s.params.legal = true → exec i s = .next t →
    t.bus.trace = s.bus.trace ++ ts →
    (∀ a m, i ≠ .wreg a m ∧ i ≠ .setbits a m ∧ i ≠ .clrbits a m) → (∀ a v, i ≠ .busW a v) →
    (i = .init → ∀ p ∈ s.params.initSequence, p.1 ≠ s.params.reg.command) →
    ∀ v, Transaction.write s.params.reg.command v ∈ ts →
      v ∈ s.params.cmd.codes ∧ (i.port = .host → v ≠ s.params.cmd.transmit ∧ v ≠ s.params.cmd.receive)

/-- Framing persists (70_reset_and_hazards.md R290, 30_encoding.md R97), under parameters whose names have values of
their own: SELECT, AUTH, READ, WRITE, HALT, TRANSCEIVE and CRC write `BitFraming` only straight after reading it, and
only the `StartSend` bit of the answer differs. -/
def Obligations.OtherExchangesKeepTheFraming : Prop :=
  ∀ (i : Instr) (s t : State) (ts : List Transaction),
    (match i with
      | .select _ | .auth _ _ _ _ | .read _ | .write _ _ | .halt | .transceive _ | .crc _ => True
      | _ => False) →
    s.params.legal = true → exec i s = .next t → t.bus.trace = s.bus.trace ++ ts →
    ∀ v, Transaction.write s.params.reg.bitFraming v ∈ ts →
      ∃ w, [Transaction.read s.params.reg.bitFraming w, .write s.params.reg.bitFraming v] <:+: ts ∧
        v &&& ~~~s.params.mask.startSend = w &&& ~~~s.params.mask.startSend

/-- Every instruction performs a bounded number of transactions: host operations by 00_scope.md R7,
40_register_access.md R127, 41_crc_engine.md R141, 42_transceiver.md R161 and 43_protocol.md R227; the bus forms, chip
command codes and card frames presented by themselves by the model's choice of what they do (log entry 7). -/
def Obligations.TransactionCountsAreBounded : Prop :=
  ∀ (i : Instr) (s t : State) (ts : List Transaction), exec i s = .next t → t.bus.trace = s.bus.trace ++ ts →
    ts.length ≤
      let xch := fun n : Nat => 1 + 2 + 2 + 1 + n + 1 + 2 + 2000 + 2 + 1 + 2 + 16
      let crc := fun n : Nat => 7 + n + 255
      match i with
      | .wreg _ _ | .rreg _ | .busW _ _ | .busR _ => 1
      | .setbits _ _ | .clrbits _ _ | .antoff | .stopcrypto => 2
      | .anton => 3
      | .crc _ => crc s.params.maxFrame
      | .transceive _ => xch s.params.maxFrame
      | .request _ => 1 + xch 1
      | .anticoll => 1 + xch 2
      | .select _ => crc 7 + xch 9
      | .auth _ _ _ _ => xch 12 + 1
      | .read _ | .halt => crc 2 + xch 4
      | .write _ _ => crc 2 + xch 4 + crc 16 + xch 18
      | .readuid => 1 + xch 1 + 1 + xch 2
      | .init => 1 + s.params.initSequence.length + 3
      | .pcdIdle | .pcdCalcCRC | .pcdTransmit | .pcdReceive | .pcdTransceive | .pcdMFAuthent | .pcdSoftReset => 1
      | j => (encode s.params j).length

/-! ### Reset and the invariant -/

/-- The fresh instance (70_reset_and_hazards.md R280), and every parameter at the value 00_scope.md R8, 10_state.md
R30, R31, 30_encoding.md R92, R94 and 43_protocol.md R225 give as its default, each name's value its own. That nothing
is presented, answered or returned yet is the model's (log entries 2, 3); the parameters' values are from general
knowledge (log entries 1, 4). -/
def Obligations.ResetIsTheFreshInstance : Prop :=
  State.reset.antennaOn = false ∧ State.reset.authenticated = false ∧ State.reset.phase = .idle ∧
  State.reset.initialised = false ∧ State.reset.opIndex = 0 ∧ State.reset.bus.trace = [] ∧
  State.reset.crcTimeout = false ∧ State.reset.hostDuty = false ∧ State.reset.refused = false ∧
  State.reset.bus.wire = [] ∧ State.reset.results = [] ∧ State.reset.pending = [] ∧
  State.reset.params.reg =
    { command := 0x01, comIEn := 0x02, divIEn := 0x03, comIrq := 0x04, divIrq := 0x05, error := 0x06,
      status1 := 0x07, status2 := 0x08, fifoData := 0x09, fifoLevel := 0x0A, waterLevel := 0x0B, control := 0x0C,
      bitFraming := 0x0D, coll := 0x0E, mode := 0x11, txMode := 0x12, rxMode := 0x13, txControl := 0x14,
      txAuto := 0x15, crcResultH := 0x21, crcResultL := 0x22, tMode := 0x2A, tPrescaler := 0x2B, tReloadH := 0x2C,
      tReloadL := 0x2D } ∧
  State.reset.params.mask =
    { irqEnXcv := 0xF7, irqEnAuth := 0x92, comIrqClr := 0x80, divIrqCrc := 0x04, flush := 0x80, startSend := 0x80,
      xcvExit := 0x31, authExit := 0x11, timerIrq := 0x01, rxInd := 0x30, err := 0x1B, crypto1On := 0x08,
      fifoLevel := 0x7F } ∧
  State.reset.params.cmd =
    { idle := 0x00, calcCrc := 0x03, transmit := 0x04, receive := 0x08, transceive := 0x0C, mfAuthent := 0x0E,
      softReset := 0x0F } ∧
  State.reset.params.picc =
    { reqidl := 0x26, reqall := 0x52, anticoll := (0x93, 0x20), select := 0x93, auth1a := 0x60, auth1b := 0x61,
      read := 0x30, write := 0xA0, decrement := 0xC0, increment := 0xC1, restore := 0xC2, transfer := 0xB0,
      halt := (0x50, 0x00) } ∧
  State.reset.params.initSequence =
    [(0x2A, 0x8D), (0x2B, 0x3E), (0x2D, 0x1E), (0x2C, 0x00), (0x15, 0x40), (0x11, 0x3D)] ∧
  State.reset.params.dummyTx = 0x00 ∧ State.reset.params.fullFrame = 0x00 ∧ State.reset.params.maxFrame = 64 ∧
  State.reset.params.legal = true

/-- The invariant holds at reset. -/
def Obligations.ResetHasTheEngineInvariant : Prop := EngineInv State.reset

/-- Every step keeps the invariant: each transaction is two bytes in one chip-select bracket (30_encoding.md R81, R85;
40_register_access.md R122), each operation counted returned one result (10_state.md R27), the phase `Authenticated`
is never without a confirmed session (R22, R25), operations before INIT leave their mark (R253, R282), `S.refused`
says exactly whether a refusal was returned (R252), and each name of the parameter tables keeps a value of its own
(R30, R92, R94): that no step changes the parameters is the model's choice (log entries 1, 4). -/
def Obligations.StepKeepsTheEngineInvariant : Prop :=
  ∀ s t : State, EngineInv s → step s = .next t → EngineInv t

/-! ### AUTH under a chip law -/

/-- AUTH under `NO_CARD_TIMER` (42_transceiver.md R172, an assumption about the chip; R165 tests `TimerIRq` in both forms
of the exchange): where it holds of AUTH's poll, no card is in the field and the chip's timer is as INIT programmed it,
the exchange's status is not `Ok`, and AUTH fails whatever `Status2` answers (43_protocol.md R205), leaving the session
and the phase. That the law speaks of the `MFAuthent` exchange at all is the model's reading (log entry 15), that the
timer's flag stands in the answer that ends the poll its choice (log entry 14), and how "programmed by INIT" is read off
the trace, and the premise `XcvLawsApply`, its reading too (log entry 16). -/
def Obligations.AuthUnderNoCardTimer : Prop :=
  ∀ (mode blk : Byte) (key uid : List Byte) (s : State), key.length = 6 → 4 ≤ uid.length →
    ∃ polls xch r s2 t, exec (.auth mode blk key uid) s = .next t ∧
      ExchangeRunWith s.params .mfAuthent ([mode, blk] ++ key ++ uid.take 4) polls xch r ∧
      Performed s.params s.bus (xch ++ [.read s.params.reg.status2 s2]) t.bus ∧
      ∀ w : Surroundings, w.cardInField = false → w.timerTookEffect = true →
        XcvLawsApply s.params (s.occasion (.auth mode blk key uid)) → TimerOnlyByInit s.params s.bus.trace →
        NoCardTimer s.params w .mfAuthent (s.occasion (.auth mode blk key uid)) polls →
        r.status ≠ .ok ∧ t = s.after t.bus .authenticationError false
end

