-- ==== Sys2Proof/Laws/State.lean ====
section
/-! SUPPORT. One lemma per field per state update, true by rfl: no later proof unfolds a record update. -/

namespace Sys2Proof.Machine

variable (s : State)

/-! ### `State.onBus` -/

@[simp] theorem State.onBus_antennaOn (f : Bus → Bus) : (s.onBus f).antennaOn = s.antennaOn := rfl
@[simp] theorem State.onBus_authenticated (f : Bus → Bus) : (s.onBus f).authenticated = s.authenticated := rfl
@[simp] theorem State.onBus_phase (f : Bus → Bus) : (s.onBus f).phase = s.phase := rfl
@[simp] theorem State.onBus_initialised (f : Bus → Bus) : (s.onBus f).initialised = s.initialised := rfl
@[simp] theorem State.onBus_opIndex (f : Bus → Bus) : (s.onBus f).opIndex = s.opIndex := rfl
@[simp] theorem State.onBus_crcTimeout (f : Bus → Bus) : (s.onBus f).crcTimeout = s.crcTimeout := rfl
@[simp] theorem State.onBus_hostDuty (f : Bus → Bus) : (s.onBus f).hostDuty = s.hostDuty := rfl
@[simp] theorem State.onBus_refused (f : Bus → Bus) : (s.onBus f).refused = s.refused := rfl
@[simp] theorem State.onBus_bus (f : Bus → Bus) : (s.onBus f).bus = f s.bus := rfl
@[simp] theorem State.onBus_results (f : Bus → Bus) : (s.onBus f).results = s.results := rfl
@[simp] theorem State.onBus_pending (f : Bus → Bus) : (s.onBus f).pending = s.pending := rfl
@[simp] theorem State.onBus_params (f : Bus → Bus) : (s.onBus f).params = s.params := rfl

/-! ### `State.setAntennaOn` -/

@[simp] theorem State.setAntennaOn_antennaOn (v : Bool) : (s.setAntennaOn v).antennaOn = v := rfl
@[simp] theorem State.setAntennaOn_authenticated (v : Bool) : (s.setAntennaOn v).authenticated = s.authenticated := rfl
@[simp] theorem State.setAntennaOn_phase (v : Bool) : (s.setAntennaOn v).phase = s.phase := rfl
@[simp] theorem State.setAntennaOn_initialised (v : Bool) : (s.setAntennaOn v).initialised = s.initialised := rfl
@[simp] theorem State.setAntennaOn_opIndex (v : Bool) : (s.setAntennaOn v).opIndex = s.opIndex := rfl
@[simp] theorem State.setAntennaOn_crcTimeout (v : Bool) : (s.setAntennaOn v).crcTimeout = s.crcTimeout := rfl
@[simp] theorem State.setAntennaOn_hostDuty (v : Bool) : (s.setAntennaOn v).hostDuty = s.hostDuty := rfl
@[simp] theorem State.setAntennaOn_refused (v : Bool) : (s.setAntennaOn v).refused = s.refused := rfl
@[simp] theorem State.setAntennaOn_bus (v : Bool) : (s.setAntennaOn v).bus = s.bus := rfl
@[simp] theorem State.setAntennaOn_results (v : Bool) : (s.setAntennaOn v).results = s.results := rfl
@[simp] theorem State.setAntennaOn_pending (v : Bool) : (s.setAntennaOn v).pending = s.pending := rfl
@[simp] theorem State.setAntennaOn_params (v : Bool) : (s.setAntennaOn v).params = s.params := rfl

/-! ### `State.setAuthenticated` -/

@[simp] theorem State.setAuthenticated_antennaOn (v : Bool) : (s.setAuthenticated v).antennaOn = s.antennaOn := rfl
@[simp] theorem State.setAuthenticated_authenticated (v : Bool) : (s.setAuthenticated v).authenticated = v := rfl
@[simp] theorem State.setAuthenticated_phase (v : Bool) : (s.setAuthenticated v).phase = s.phase := rfl
@[simp] theorem State.setAuthenticated_initialised (v : Bool) : (s.setAuthenticated v).initialised = s.initialised := rfl
@[simp] theorem State.setAuthenticated_opIndex (v : Bool) : (s.setAuthenticated v).opIndex = s.opIndex := rfl
@[simp] theorem State.setAuthenticated_crcTimeout (v : Bool) : (s.setAuthenticated v).crcTimeout = s.crcTimeout := rfl
@[simp] theorem State.setAuthenticated_hostDuty (v : Bool) : (s.setAuthenticated v).hostDuty = s.hostDuty := rfl
@[simp] theorem State.setAuthenticated_refused (v : Bool) : (s.setAuthenticated v).refused = s.refused := rfl
@[simp] theorem State.setAuthenticated_bus (v : Bool) : (s.setAuthenticated v).bus = s.bus := rfl
@[simp] theorem State.setAuthenticated_results (v : Bool) : (s.setAuthenticated v).results = s.results := rfl
@[simp] theorem State.setAuthenticated_pending (v : Bool) : (s.setAuthenticated v).pending = s.pending := rfl
@[simp] theorem State.setAuthenticated_params (v : Bool) : (s.setAuthenticated v).params = s.params := rfl

/-! ### `State.setPhase` -/

@[simp] theorem State.setPhase_antennaOn (p : Phase) : (s.setPhase p).antennaOn = s.antennaOn := rfl
@[simp] theorem State.setPhase_authenticated (p : Phase) : (s.setPhase p).authenticated = s.authenticated := rfl
@[simp] theorem State.setPhase_phase (p : Phase) : (s.setPhase p).phase = p := rfl
@[simp] theorem State.setPhase_initialised (p : Phase) : (s.setPhase p).initialised = s.initialised := rfl
@[simp] theorem State.setPhase_opIndex (p : Phase) : (s.setPhase p).opIndex = s.opIndex := rfl
@[simp] theorem State.setPhase_crcTimeout (p : Phase) : (s.setPhase p).crcTimeout = s.crcTimeout := rfl
@[simp] theorem State.setPhase_hostDuty (p : Phase) : (s.setPhase p).hostDuty = s.hostDuty := rfl
@[simp] theorem State.setPhase_refused (p : Phase) : (s.setPhase p).refused = s.refused := rfl
@[simp] theorem State.setPhase_bus (p : Phase) : (s.setPhase p).bus = s.bus := rfl
@[simp] theorem State.setPhase_results (p : Phase) : (s.setPhase p).results = s.results := rfl
@[simp] theorem State.setPhase_pending (p : Phase) : (s.setPhase p).pending = s.pending := rfl
@[simp] theorem State.setPhase_params (p : Phase) : (s.setPhase p).params = s.params := rfl

/-! ### `State.setInitialised` -/

@[simp] theorem State.setInitialised_antennaOn : s.setInitialised.antennaOn = s.antennaOn := rfl
@[simp] theorem State.setInitialised_authenticated : s.setInitialised.authenticated = s.authenticated := rfl
@[simp] theorem State.setInitialised_phase : s.setInitialised.phase = s.phase := rfl
@[simp] theorem State.setInitialised_initialised : s.setInitialised.initialised = true := rfl
@[simp] theorem State.setInitialised_opIndex : s.setInitialised.opIndex = s.opIndex := rfl
@[simp] theorem State.setInitialised_crcTimeout : s.setInitialised.crcTimeout = s.crcTimeout := rfl
@[simp] theorem State.setInitialised_hostDuty : s.setInitialised.hostDuty = s.hostDuty := rfl
@[simp] theorem State.setInitialised_refused : s.setInitialised.refused = s.refused := rfl
@[simp] theorem State.setInitialised_bus : s.setInitialised.bus = s.bus := rfl
@[simp] theorem State.setInitialised_results : s.setInitialised.results = s.results := rfl
@[simp] theorem State.setInitialised_pending : s.setInitialised.pending = s.pending := rfl
@[simp] theorem State.setInitialised_params : s.setInitialised.params = s.params := rfl

/-! ### `State.markCrcTimeout` -/

@[simp] theorem State.markCrcTimeout_antennaOn (c : Bool) : (s.markCrcTimeout c).antennaOn = s.antennaOn := rfl
@[simp] theorem State.markCrcTimeout_authenticated (c : Bool) : (s.markCrcTimeout c).authenticated = s.authenticated := rfl
@[simp] theorem State.markCrcTimeout_phase (c : Bool) : (s.markCrcTimeout c).phase = s.phase := rfl
@[simp] theorem State.markCrcTimeout_initialised (c : Bool) : (s.markCrcTimeout c).initialised = s.initialised := rfl
@[simp] theorem State.markCrcTimeout_opIndex (c : Bool) : (s.markCrcTimeout c).opIndex = s.opIndex := rfl
@[simp] theorem State.markCrcTimeout_crcTimeout (c : Bool) : (s.markCrcTimeout c).crcTimeout = (s.crcTimeout || c) := rfl
@[simp] theorem State.markCrcTimeout_hostDuty (c : Bool) : (s.markCrcTimeout c).hostDuty = s.hostDuty := rfl
@[simp] theorem State.markCrcTimeout_refused (c : Bool) : (s.markCrcTimeout c).refused = s.refused := rfl
@[simp] theorem State.markCrcTimeout_bus (c : Bool) : (s.markCrcTimeout c).bus = s.bus := rfl
@[simp] theorem State.markCrcTimeout_results (c : Bool) : (s.markCrcTimeout c).results = s.results := rfl
@[simp] theorem State.markCrcTimeout_pending (c : Bool) : (s.markCrcTimeout c).pending = s.pending := rfl
@[simp] theorem State.markCrcTimeout_params (c : Bool) : (s.markCrcTimeout c).params = s.params := rfl

/-! ### `State.markHostDuty` -/

@[simp] theorem State.markHostDuty_antennaOn (c : Bool) : (s.markHostDuty c).antennaOn = s.antennaOn := rfl
@[simp] theorem State.markHostDuty_authenticated (c : Bool) : (s.markHostDuty c).authenticated = s.authenticated := rfl
@[simp] theorem State.markHostDuty_phase (c : Bool) : (s.markHostDuty c).phase = s.phase := rfl
@[simp] theorem State.markHostDuty_initialised (c : Bool) : (s.markHostDuty c).initialised = s.initialised := rfl
@[simp] theorem State.markHostDuty_opIndex (c : Bool) : (s.markHostDuty c).opIndex = s.opIndex := rfl
@[simp] theorem State.markHostDuty_crcTimeout (c : Bool) : (s.markHostDuty c).crcTimeout = s.crcTimeout := rfl
@[simp] theorem State.markHostDuty_hostDuty (c : Bool) : (s.markHostDuty c).hostDuty = (s.hostDuty || c) := rfl
@[simp] theorem State.markHostDuty_refused (c : Bool) : (s.markHostDuty c).refused = s.refused := rfl
@[simp] theorem State.markHostDuty_bus (c : Bool) : (s.markHostDuty c).bus = s.bus := rfl
@[simp] theorem State.markHostDuty_results (c : Bool) : (s.markHostDuty c).results = s.results := rfl
@[simp] theorem State.markHostDuty_pending (c : Bool) : (s.markHostDuty c).pending = s.pending := rfl
@[simp] theorem State.markHostDuty_params (c : Bool) : (s.markHostDuty c).params = s.params := rfl

/-! ### `State.begin` -/

@[simp] theorem State.begin_antennaOn : s.begin.antennaOn = s.antennaOn := rfl
@[simp] theorem State.begin_authenticated : s.begin.authenticated = s.authenticated := rfl
@[simp] theorem State.begin_phase : s.begin.phase = s.phase := rfl
@[simp] theorem State.begin_initialised : s.begin.initialised = s.initialised := rfl
@[simp] theorem State.begin_opIndex : s.begin.opIndex = s.opIndex := rfl
@[simp] theorem State.begin_crcTimeout : s.begin.crcTimeout = s.crcTimeout := rfl
@[simp] theorem State.begin_hostDuty : s.begin.hostDuty = (s.hostDuty || !s.initialised) := rfl
@[simp] theorem State.begin_refused : s.begin.refused = s.refused := rfl
@[simp] theorem State.begin_bus : s.begin.bus = s.bus := rfl
@[simp] theorem State.begin_results : s.begin.results = s.results := rfl
@[simp] theorem State.begin_pending : s.begin.pending = s.pending := rfl
@[simp] theorem State.begin_params : s.begin.params = s.params := rfl

/-! ### `State.complete` -/

@[simp] theorem State.complete_antennaOn (r : Result) : (s.complete r).antennaOn = s.antennaOn := rfl
@[simp] theorem State.complete_authenticated (r : Result) : (s.complete r).authenticated = s.authenticated := rfl
@[simp] theorem State.complete_phase (r : Result) : (s.complete r).phase = s.phase := rfl
@[simp] theorem State.complete_initialised (r : Result) : (s.complete r).initialised = s.initialised := rfl
@[simp] theorem State.complete_opIndex (r : Result) : (s.complete r).opIndex = s.opIndex + 1 := rfl
@[simp] theorem State.complete_crcTimeout (r : Result) : (s.complete r).crcTimeout = s.crcTimeout := rfl
@[simp] theorem State.complete_hostDuty (r : Result) : (s.complete r).hostDuty = s.hostDuty := rfl
@[simp] theorem State.complete_refused (r : Result) : (s.complete r).refused = s.refused := rfl
@[simp] theorem State.complete_bus (r : Result) : (s.complete r).bus = s.bus := rfl
@[simp] theorem State.complete_results (r : Result) : (s.complete r).results = s.results ++ [r] := rfl
@[simp] theorem State.complete_pending (r : Result) : (s.complete r).pending = s.pending := rfl
@[simp] theorem State.complete_params (r : Result) : (s.complete r).params = s.params := rfl

/-! ### `State.refuse` -/

@[simp] theorem State.refuse_antennaOn (reason : RefusalReason) : (s.refuse reason).antennaOn = s.antennaOn := rfl
@[simp] theorem State.refuse_authenticated (reason : RefusalReason) : (s.refuse reason).authenticated = s.authenticated := rfl
@[simp] theorem State.refuse_phase (reason : RefusalReason) : (s.refuse reason).phase = s.phase := rfl
@[simp] theorem State.refuse_initialised (reason : RefusalReason) : (s.refuse reason).initialised = s.initialised := rfl
@[simp] theorem State.refuse_opIndex (reason : RefusalReason) : (s.refuse reason).opIndex = s.opIndex + 1 := rfl
@[simp] theorem State.refuse_crcTimeout (reason : RefusalReason) : (s.refuse reason).crcTimeout = s.crcTimeout := rfl
@[simp] theorem State.refuse_hostDuty (reason : RefusalReason) : (s.refuse reason).hostDuty = s.hostDuty := rfl
@[simp] theorem State.refuse_refused (reason : RefusalReason) : (s.refuse reason).refused = true := rfl
@[simp] theorem State.refuse_bus (reason : RefusalReason) : (s.refuse reason).bus = s.bus := rfl
@[simp] theorem State.refuse_results (reason : RefusalReason) : (s.refuse reason).results = s.results ++ [.refused reason] := rfl
@[simp] theorem State.refuse_pending (reason : RefusalReason) : (s.refuse reason).pending = s.pending := rfl
@[simp] theorem State.refuse_params (reason : RefusalReason) : (s.refuse reason).params = s.params := rfl

end Sys2Proof.Machine
end

