-- ==== Sys2Proof/Laws/Bus.lean ====
section
/-! SUPPORT. What each bus operation can do, said once: the transactions it performs, in terms of `Performed`. -/

namespace Sys2Proof.Machine

/-! ### `readValues` and `Performed` -/

@[simp] theorem readValues_append (ts us : List Transaction) :
    readValues (ts ++ us) = readValues ts ++ readValues us := by
  induction ts with
  | nil => rfl
  | cons t ts ih => cases t <;> simp [readValues, ih]

@[simp] theorem readValues_map_write (a : RegAddr) (d : List Byte) : readValues (d.map (.write a)) = [] := by
  induction d <;> simp_all [readValues]

@[simp] theorem readValues_map_read (a : RegAddr) (d : List Byte) : readValues (d.map (.read a)) = d := by
  induction d <;> simp_all [readValues]

/-- Performing nothing. -/
theorem Performed.nil (P : Params) (b : Bus) : Performed P b [] b :=
  ⟨by simp, by simp, by simp [readValues], by simp [readValues], by simp [readValues]⟩

/-- After `n` answers the next ones are those `n` places on. -/
theorem Bus.answerAt_shift {b b' : Bus} {n : Nat} (ha : b'.answers = b.answers.drop n)
    (hd : b'.draws = b.draws + (n - b.answers.length)) (k : Nat) : b'.answerAt k = b.answerAt (n + k) := by
  unfold Bus.answerAt
  simp only [ha, hd, List.length_drop, List.getElem_drop]
  by_cases h : n + k < b.answers.length
  · rw [dif_pos (by omega), dif_pos h]
  · rw [dif_neg (by omega), dif_neg h]
    congr 1
    omega

/-- Two runs one after the other. -/
theorem Performed.append {P : Params} {b b' b'' : Bus} {ts us : List Transaction}
    (h : Performed P b ts b') (k : Performed P b' us b'') :
    Performed P b (ts ++ us) b'' where
  trace := by rw [k.trace, h.trace, List.append_assoc]
  wire := by rw [k.wire, h.wire, List.flatMap_append, List.append_assoc]
  values := by
    rw [readValues_append, List.length_append, List.range_add, List.map_append, ← h.values, List.map_map]
    congr 1
    rw [k.values]
    simp only [List.length_map, List.length_range]
    refine List.map_congr_left fun x _ => ?_
    exact Bus.answerAt_shift h.answers h.draws x
  answers := by rw [readValues_append, List.length_append, k.answers, h.answers, List.drop_drop]
  draws := by
    rw [readValues_append, List.length_append, k.draws, h.draws, h.answers, List.length_drop]
    omega

/-! ### One transaction -/

/-- The address byte sent carries the address recorded in the trace (R82). -/
theorem addrByte_eq (a : Byte) (isRead : Bool) : addrByte a isRead = busAddrByte isRead (regAddr a) := by
  revert a isRead
  decide +kernel

/-- A 6-bit address keeps its bits. -/
@[simp] theorem regAddr_wide (a : RegAddr) : regAddr (wide a) = a := by
  revert a
  decide +kernel

/-- A write is one transaction. -/
theorem Bus.write_performed (P : Params) (a : RegAddr) (v : Byte) (b : Bus) : Performed P b [.write a v] (b.write a v) := by
  constructor <;> simp [Bus.write, Bus.emit, Bus.record, readValues, Transaction.wireEvents, addrByte_eq]

/-- A read is one transaction, answered by the chip's next answer. -/
theorem Bus.read_performed (P : Params) (a : RegAddr) (b : Bus) :
    Performed P b [.read a (b.read P a).1] (b.read P a).2 := by
  cases h : b.answers with
  | nil =>
    constructor <;>
      simp [Bus.read, Bus.emit, Bus.record, Bus.draw, readValues, Transaction.wireEvents, addrByte_eq, h,
        Bus.answerAt]
  | cons v rest =>
    constructor <;>
      simp [Bus.read, Bus.emit, Bus.record, Bus.draw, readValues, Transaction.wireEvents, addrByte_eq, h,
        Bus.answerAt]

/-! ### Sequences -/

/-- The spec's `~m`. -/
theorem xor_ff (m : Byte) : 0xFF ^^^ m = ~~~m := by
  revert m
  decide +kernel

/-- SETBITS reads, then writes the OR. -/
theorem Bus.setBits_performed (P : Params) (a : RegAddr) (m : Byte) (b : Bus) :
    ∃ v, Performed P b (setRun a m v) (b.setBits P a m) :=
  ⟨(b.read P a).1, (b.read_performed P a).append (Bus.write_performed P a _ _)⟩

/-- CLRBITS reads, then writes the AND with the complement. -/
theorem Bus.clearBits_performed (P : Params) (a : RegAddr) (m : Byte) (b : Bus) :
    ∃ v, Performed P b (clearRun a m v) (b.clearBits P a m) := by
  refine ⟨(b.read P a).1, ?_⟩
  rw [clearRun, xor_ff]
  exact (b.read_performed P a).append (Bus.write_performed P a _ _)

/-- Loading writes each byte in order. -/
theorem Bus.load_performed (P : Params) (a : RegAddr) (d : List Byte) (b : Bus) :
    Performed P b (d.map (.write a)) (b.load a d) := by
  induction d generalizing b with
  | nil => exact Performed.nil P b
  | cons v d ih => exact (Bus.write_performed P a v b).append (ih _)

/-- Writing pairs writes each in order. -/
theorem Bus.writePairs_performed (P : Params) (ps : List (RegAddr × Byte)) (b : Bus) :
    Performed P b (ps.map fun p => .write p.1 p.2) (b.writePairs ps) := by
  induction ps generalizing b with
  | nil => exact Performed.nil P b
  | cons p ps ih => exact (Bus.write_performed P p.1 p.2 b).append (ih _)

/-- Draining reads `n` times and returns the answers in order. -/
theorem Bus.drain_performed (P : Params) (a : RegAddr) (n : Nat) (b : Bus) :
    (b.drain P a n).1.length = n ∧ Performed P b ((b.drain P a n).1.map (.read a)) (b.drain P a n).2 := by
  induction n generalizing b with
  | zero => exact ⟨rfl, Performed.nil P b⟩
  | succ n ih =>
    obtain ⟨hl, hp⟩ := ih (b.read P a).2
    exact ⟨by simp [Bus.drain, hl], (b.read_performed P a).append hp⟩

/-- A poll (R143): its answers, how it ended, and its last answer. -/
theorem Bus.poll_performed (P : Params) (a : RegAddr) (mask : Byte) (budget : Nat) (last : Byte) (b : Bus) :
    ∃ polls, PollRun budget mask polls (b.poll P a mask budget last).seen ∧
      (b.poll P a mask budget last).last = polls.getLastD last ∧
      Performed P b (polls.map (.read a)) (b.poll P a mask budget last).bus := by
  induction budget generalizing last b with
  | zero => exact ⟨[], by simp [PollRun, Bus.poll], rfl, Performed.nil P b⟩
  | succ n ih =>
    have hr := b.read_performed P a
    by_cases hv : (b.read P a).1 &&& mask = 0
    · obtain ⟨polls, hrun, hlast, hp⟩ := ih (b.read P a).1 (b.read P a).2
      have hstep : b.poll P a mask (n + 1) last = (b.read P a).2.poll P a mask n (b.read P a).1 := by
        rw [Bus.poll, if_neg (not_not.mpr hv)]
      rw [hstep]
      refine ⟨(b.read P a).1 :: polls, ⟨fun hs => ?_, fun hs => ?_⟩, ?_, hr.append hp⟩
      · obtain ⟨before, l, rfl, hlen, hb, hl⟩ := hrun.1 hs
        exact ⟨(b.read P a).1 :: before, l, rfl, by simpa using hlen, by simpa [hv] using hb, hl⟩
      · obtain ⟨hlen, hb⟩ := hrun.2 hs
        exact ⟨by simp [hlen], by simpa [hv] using hb⟩
      · rw [hlast]
        cases polls <;> rfl
    · have hstep : b.poll P a mask (n + 1) last = { last := (b.read P a).1, seen := true, bus := (b.read P a).2 } := by
        rw [Bus.poll, if_pos hv]
      rw [hstep]
      exact ⟨[(b.read P a).1], ⟨fun _ => ⟨[], (b.read P a).1, rfl, by simp, by simp, hv⟩, by simp⟩, rfl, hr⟩

end Sys2Proof.Machine
end

