-- ==== Sys2Proof/Laws/Crc.lean ====
section
/-! SUPPORT. What `calculateCrc` can do, said once (41_crc_engine.md R141, R142), and how the chip laws of a CRC hang
together (R146, R147). -/

namespace Sys2Proof.Machine

/-- The transactions of `calculateCrc(d)`, for any answers of the chip. -/
theorem Bus.calculateCrc_performed (P : Params) (d : List Byte) (b : Bus) :
    ∃ ts, CrcRun P d ts (b.calculateCrc P d).lo (b.calculateCrc P d).hi (b.calculateCrc P d).seen ∧
      Performed P b ts (b.calculateCrc P d).bus := by
  obtain ⟨v0, h0⟩ := b.clearBits_performed P P.reg.divIrq P.mask.divIrqCrc
  obtain ⟨v1, h1⟩ := (b.clearBits P P.reg.divIrq P.mask.divIrqCrc).setBits_performed P P.reg.fifoLevel P.mask.flush
  have h2 := ((b.clearBits P P.reg.divIrq P.mask.divIrqCrc).setBits P P.reg.fifoLevel P.mask.flush).load_performed P
    P.reg.fifoData d
  have h3 := (((b.clearBits P P.reg.divIrq P.mask.divIrqCrc).setBits P P.reg.fifoLevel P.mask.flush).load P.reg.fifoData
    d).write_performed P P.reg.command P.cmd.calcCrc
  obtain ⟨polls, hrun, -, h4⟩ := Bus.poll_performed P P.reg.divIrq P.mask.divIrqCrc crcPollBudget 0x00
    ((((b.clearBits P P.reg.divIrq P.mask.divIrqCrc).setBits P P.reg.fifoLevel P.mask.flush).load P.reg.fifoData d).write
      P.reg.command P.cmd.calcCrc)
  have h5 := Bus.read_performed P P.reg.crcResultL (Bus.poll P P.reg.divIrq P.mask.divIrqCrc crcPollBudget 0x00
    ((((b.clearBits P P.reg.divIrq P.mask.divIrqCrc).setBits P P.reg.fifoLevel P.mask.flush).load P.reg.fifoData d).write
      P.reg.command P.cmd.calcCrc)).bus
  have h6 := Bus.read_performed P P.reg.crcResultH ((Bus.poll P P.reg.divIrq P.mask.divIrqCrc crcPollBudget 0x00
    ((((b.clearBits P P.reg.divIrq P.mask.divIrqCrc).setBits P P.reg.fifoLevel P.mask.flush).load P.reg.fifoData d).write
      P.reg.command P.cmd.calcCrc)).bus.read P P.reg.crcResultL).2
  exact ⟨_, ⟨v0, v1, polls, hrun, rfl⟩, ((((h0.append h1).append h2).append h3).append h4).append (h5.append h6)⟩

/-- The result of `calculateCrc(d)` and the state after it: the bus, and the mark of an exhausted poll. -/
theorem State.calculateCrc_spec (d : List Byte) (s : State) :
    ∃ ts b lo hi seen, CrcRun s.params d ts lo hi seen ∧ Performed s.params s.bus ts b ∧
      s.calculateCrc d = ((lo, hi), { s with bus := b, crcTimeout := s.crcTimeout || !seen }) := by
  obtain ⟨ts, hrun, hp⟩ := s.bus.calculateCrc_performed s.params d
  exact ⟨ts, _, _, _, _, hrun, hp, rfl⟩

/-! ### The chip laws -/

/-- Transactions that leave some registers do not end that only INIT changed them. -/
theorem RegsOnlyByInit.append {P : Params} {regs : List RegAddr} {ts us : List Transaction}
    (h : RegsOnlyByInit P regs ts) (hu : RegsUnchanged P regs us) : RegsOnlyByInit P regs (ts ++ us) := by
  obtain ⟨runs, rfl, hall, run, hmem, hinit⟩ := h
  refine ⟨runs ++ [us], by simp, fun r hr => ?_, run, List.mem_append_left _ hmem, hinit⟩
  rcases List.mem_append.1 hr with hr | hr
  · exact hall r hr
  · exact .inr (List.mem_singleton.1 hr ▸ hu)

/-- After an INIT, only INIT changed the registers. -/
theorem InitRun.regsOnlyByInit {P : Params} {ts : List Transaction} (h : InitRun P ts) (regs : List RegAddr) :
    RegsOnlyByInit P regs ts :=
  ⟨[ts], by simp, by simp [h], ts, by simp, h⟩

/-- "`CRC_A_LAW` implies `CRC_DET`" (R147), where the first CRC finds `CRCPreset` at 01 and `Mode` INIT's. -/
theorem crcDet_of_crcALaw {P : Params} {mode : Byte} {o o' : Occasion} {d d' : List Byte} {lo hi lo' hi' : Byte}
    {seen seen' : Bool} (hp : mode &&& 0x03 = 0x01) (hm : ModeOnlyByInit P o.before)
    (h : CrcALaw P mode o d lo hi seen) (h' : CrcALaw P mode o' d' lo' hi' seen') :
    CrcDet P o o' d d' (lo, hi) (lo', hi') seen seen' := by
  rintro ha ha' ⟨between, hb, hu⟩ rfl hs hs'
  obtain ⟨rfl, rfl⟩ := h ha hp hm hs
  obtain ⟨rfl, rfl⟩ := h' ha' hp (hb ▸ RegsOnlyByInit.append hm hu) hs'
  rfl

end Sys2Proof.Machine
end

