-- ==== Sys2Proof/Laws/Flags.lean ====
section
/-! SUPPORT. One lemma per test and computed value of Machine/Flags.lean and Machine/Operands.lean: what it says, with
the spec's own numbers and the parameters' names. -/

namespace Sys2Proof.Machine

theorem antennaBitsSet_iff (v : Byte) : antennaBitsSet v = true ↔ v &&& 0x03 = 0x03 := decide_eq_true_iff

theorem errorBitSet_iff (P : Params) (v : Byte) : errorBitSet P v = true ↔ v &&& P.mask.err ≠ 0 := decide_eq_true_iff

theorem cryptoOn_iff (P : Params) (v : Byte) : cryptoOn P v = true ↔ v &&& P.mask.crypto1On ≠ 0 := decide_eq_true_iff

theorem observedStatus_eq (P : Params) (irq : Byte) :
    observedStatus P irq = if irq &&& P.mask.timerIrq ≠ 0 then .noTag else .ok := rfl

theorem drains_iff (P : Params) (cmd : ExchangeCommand) (irq : Byte) :
    drains P cmd irq = true ↔ cmd = .transceive ∧ irq &&& P.mask.rxInd ≠ 0 := by
  unfold drains
  rw [Bool.and_eq_true, decide_eq_true_iff, decide_eq_true_iff]

theorem requestOk_iff (r : TransceiveResult) : requestOk r = true ↔ r.status = .ok ∧ r.bitLength = 16 := by
  unfold requestOk
  rw [Bool.and_eq_true, decide_eq_true_iff, decide_eq_true_iff]
  rfl

theorem selectOk_iff (r : TransceiveResult) : selectOk r = true ↔ r.status = .ok ∧ r.bitLength = 24 := by
  unfold selectOk
  rw [Bool.and_eq_true, decide_eq_true_iff, decide_eq_true_iff]
  rfl

theorem authOk_iff (P : Params) (r : TransceiveResult) (v : Byte) :
    authOk P r v = true ↔ r.status = .ok ∧ v &&& P.mask.crypto1On ≠ 0 := by
  unfold authOk
  rw [Bool.and_eq_true, decide_eq_true_iff, cryptoOn_iff]

theorem readOk_iff (r : TransceiveResult) : readOk r = true ↔ r.status = .ok ∧ r.data.length = 16 := by
  unfold readOk
  rw [Bool.and_eq_true, decide_eq_true_iff, decide_eq_true_iff]
  rfl

theorem ack_iff (r : TransceiveResult) :
    ack r = true ↔ (r.status = .ok ∧ r.bitLength = 4) ∧ r.data.headD 0 &&& 0x0F = 0x0A := by
  unfold ack
  rw [Bool.and_eq_true, Bool.and_eq_true, decide_eq_true_iff, decide_eq_true_iff, decide_eq_true_iff]
  rfl

theorem frameLengthOk_iff (P : Params) (d : List Byte) : frameLengthOk P d = true ↔ d.length ≤ P.maxFrame :=
  decide_eq_true_iff

theorem selectLengthOk_iff (u : List Byte) : selectLengthOk u = true ↔ u.length = 5 := decide_eq_true_iff

theorem writeLengthOk_iff (d : List Byte) : writeLengthOk d = true ↔ d.length = 16 := decide_eq_true_iff

theorem authLengthsOk_iff (key uid : List Byte) :
    authLengthsOk key uid = true ↔ key.length = 6 ∧ 4 ≤ uid.length := by
  unfold authLengthsOk
  rw [Bool.and_eq_true, decide_eq_true_iff, decide_eq_true_iff]
  rfl

theorem Uid.valid_iff (u : Uid) : u.valid = true ↔ u.id0 ^^^ u.id1 ^^^ u.id2 ^^^ u.id3 = u.bcc := decide_eq_true_iff

/-- ANTICOLL's verdict on an exchange is the spec's. -/
theorem anticollUid_eq (r : TransceiveResult) : anticollUid r = anticollVerdict r := by
  obtain ⟨status, data, bl⟩ := r
  cases status <;> simp only [anticollUid, anticollVerdict, reduceCtorEq, if_false, if_true]
  unfold validUid uidOfBytes
  rcases data with _ | ⟨b0, _ | ⟨b1, _ | ⟨b2, _ | ⟨b3, _ | ⟨b4, _ | ⟨b5, data⟩⟩⟩⟩⟩⟩ <;> try rfl
  simp only [Uid.valid_iff]

/-- The integer formula of R167 with its two clamps, on natural numbers. -/
theorem bitLengthOf_eq (lvl vb : Nat) : bitLengthOf lvl vb = bitLengthSpec lvl vb := by
  unfold bitLengthOf bitLengthSpec maxRxBits
  by_cases hv : vb = 0
  · simp only [hv, ne_eq, not_true_eq_false, if_false, if_true]
    omega
  · simp only [hv, ne_eq, not_false_eq_true, if_false, if_true]
    omega

theorem bitLengthSpec_le (lvl vb : Nat) : bitLengthSpec lvl vb ≤ 128 := by
  unfold bitLengthSpec
  split <;> omega

/-- `ceil(bl / 8)` is the least byte count that holds `bl` bits. -/
theorem drainCount_spec (bl : Nat) : 8 * drainCount bl < bl + 8 ∧ bl ≤ 8 * drainCount bl := by
  unfold drainCount
  omega

end Sys2Proof.Machine
end

