-- ==== Sys2Proof/Laws/Exchange.lean ====
section
/-! SUPPORT. What an exchange can do, said once (42_transceiver.md R161), and what every result of one satisfies. -/

namespace Sys2Proof.Machine

/-! ### The exchange -/

/-- Steps 1 to 7. -/
theorem Bus.startExchange_performed (P : Params) (cmd : ExchangeCommand) (d : List Byte) (b : Bus) :
    ∃ v0 v1 start, (cmd = .transceive → ∃ v2, start = setRun P.reg.bitFraming P.mask.startSend v2) ∧
      (cmd = .mfAuthent → start = []) ∧
      Performed P b ([.write P.reg.comIEn (if cmd = .transceive then P.mask.irqEnXcv else P.mask.irqEnAuth)] ++
        clearRun P.reg.comIrq P.mask.comIrqClr v0 ++
        setRun P.reg.fifoLevel P.mask.flush v1 ++ [.write P.reg.command P.cmd.idle] ++ d.map (.write P.reg.fifoData) ++
        [.write P.reg.command (if cmd = .transceive then P.cmd.transceive else P.cmd.mfAuthent)] ++ start)
        (b.startExchange P cmd d) := by
  have h0 := b.write_performed P P.reg.comIEn (irqEnable P cmd)
  obtain ⟨v0, h1⟩ := (b.write P.reg.comIEn (irqEnable P cmd)).clearBits_performed P P.reg.comIrq P.mask.comIrqClr
  obtain ⟨v1, h2⟩ := Bus.setBits_performed P P.reg.fifoLevel P.mask.flush
    ((b.write P.reg.comIEn (irqEnable P cmd)).clearBits P P.reg.comIrq P.mask.comIrqClr)
  have h3 := Bus.write_performed P P.reg.command P.cmd.idle
    (((b.write P.reg.comIEn (irqEnable P cmd)).clearBits P P.reg.comIrq P.mask.comIrqClr).setBits P P.reg.fifoLevel P.mask.flush)
  have h4 := Bus.load_performed P P.reg.fifoData d
    ((((b.write P.reg.comIEn (irqEnable P cmd)).clearBits P P.reg.comIrq P.mask.comIrqClr).setBits P P.reg.fifoLevel
      P.mask.flush).write P.reg.command P.cmd.idle)
  have h5 := Bus.write_performed P P.reg.command (cmd.code P)
    (((((b.write P.reg.comIEn (irqEnable P cmd)).clearBits P P.reg.comIrq P.mask.comIrqClr).setBits P P.reg.fifoLevel
      P.mask.flush).write P.reg.command P.cmd.idle).load P.reg.fifoData d)
  have h := ((((h0.append h1).append h2).append h3).append h4).append h5
  cases cmd with
  | transceive =>
    obtain ⟨v2, h6⟩ := Bus.setBits_performed P P.reg.bitFraming P.mask.startSend
      ((((((b.write P.reg.comIEn (irqEnable P .transceive)).clearBits P P.reg.comIrq P.mask.comIrqClr).setBits P P.reg.fifoLevel
        P.mask.flush).write P.reg.command P.cmd.idle).load P.reg.fifoData d).write P.reg.command
          (ExchangeCommand.transceive.code P))
    exact ⟨v0, v1, _, fun _ => ⟨v2, rfl⟩, by simp, h.append h6⟩
  | mfAuthent => exact ⟨v0, v1, [], by simp, fun _ => rfl, by rw [List.append_nil]; exact h⟩

/-- Step 13. -/
theorem Bus.drainResponse_performed (P : Params) (status : Status) (b : Bus) :
    ∃ (l c : Byte) (data : List Byte),
      (b.drainResponse P status).1 =
        { status := status, data := data,
          bitLength := bitLengthSpec (l &&& P.mask.fifoLevel).toNat (c &&& 0x07).toNat } ∧
      8 * data.length < bitLengthSpec (l &&& P.mask.fifoLevel).toNat (c &&& 0x07).toNat + 8 ∧
      bitLengthSpec (l &&& P.mask.fifoLevel).toNat (c &&& 0x07).toNat ≤ 8 * data.length ∧
      Performed P b ([.read P.reg.fifoLevel l, .read P.reg.control c] ++ data.map (.read P.reg.fifoData))
        (b.drainResponse P status).2 := by
  have hl := b.read_performed P P.reg.fifoLevel
  have hc := (b.read P P.reg.fifoLevel).2.read_performed P P.reg.control
  have hbl := bitLengthOf_eq (fifoLevelOf P (b.read P P.reg.fifoLevel).1)
    (validBitsOf ((b.read P P.reg.fifoLevel).2.read P P.reg.control).1)
  obtain ⟨hn, hq⟩ := Bus.drain_performed P P.reg.fifoData
    (drainCount (bitLengthOf (fifoLevelOf P (b.read P P.reg.fifoLevel).1)
      (validBitsOf ((b.read P P.reg.fifoLevel).2.read P P.reg.control).1)))
    ((b.read P P.reg.fifoLevel).2.read P P.reg.control).2
  have hd := drainCount_spec (bitLengthOf (fifoLevelOf P (b.read P P.reg.fifoLevel).1)
    (validBitsOf ((b.read P P.reg.fifoLevel).2.read P P.reg.control).1))
  rw [← hn] at hd
  refine ⟨_, _, _, ?_, hbl ▸ hd.1, hbl ▸ hd.2, (hl.append hc).append hq⟩
  rw [← Mask.rxLastBits, ← fifoLevelOf, ← validBitsOf, ← hbl]
  rfl

/-- Steps 11 to 13. -/
theorem Bus.finishExchange_performed (P : Params) (cmd : ExchangeCommand) (irq : Byte) (b : Bus) :
    ∃ tail, ExchangeEnd P cmd true irq tail (b.finishExchange P cmd irq).1 ∧
      Performed P b tail (b.finishExchange P cmd irq).2 := by
  have he := b.read_performed P P.reg.error
  simp only [ExchangeEnd, Bool.true_eq_false, if_false]
  by_cases h1 : (b.read P P.reg.error).1 &&& P.mask.err = 0
  · have hset : errorBitSet P (b.read P P.reg.error).1 = false :=
      Bool.eq_false_iff.mpr fun h => (errorBitSet_iff P _).mp h h1
    by_cases h2 : cmd = .transceive ∧ irq &&& P.mask.rxInd ≠ 0
    · have hf : b.finishExchange P cmd irq = (b.read P P.reg.error).2.drainResponse P (observedStatus P irq) := by
        simp [Bus.finishExchange, hset, (drains_iff P cmd irq).mpr h2]
      obtain ⟨l, c, data, hr, hlo, hhi, hp⟩ := (b.read P P.reg.error).2.drainResponse_performed P (observedStatus P irq)
      refine ⟨_, ⟨(b.read P P.reg.error).1, ?_⟩, by rw [hf]; exact he.append hp⟩
      rw [if_neg (not_not.mpr h1), if_pos h2, hf, hr]
      exact ⟨l, c, data, rfl, rfl, rfl, rfl, hlo, hhi⟩
    · have hd : drains P cmd irq = false := Bool.eq_false_iff.mpr fun h => h2 ((drains_iff P cmd irq).mp h)
      have hf : b.finishExchange P cmd irq =
          ({ status := observedStatus P irq, data := [], bitLength := 0 }, (b.read P P.reg.error).2) := by
        simp [Bus.finishExchange, hset, hd]
      refine ⟨_, ⟨(b.read P P.reg.error).1, ?_⟩, by rw [hf]; exact he⟩
      rw [if_neg (not_not.mpr h1), if_neg h2, hf]
      exact ⟨rfl, rfl⟩
  · have hf : b.finishExchange P cmd irq = (TransceiveResult.failed, (b.read P P.reg.error).2) := by
      simp [Bus.finishExchange, (errorBitSet_iff P _).mpr h1]
    refine ⟨_, ⟨(b.read P P.reg.error).1, ?_⟩, by rw [hf]; exact he⟩
    rw [if_pos h1, hf]
    exact ⟨rfl, rfl⟩

/-- The transactions of `pcdExchange(cmd, d)` and its result, for any answers of the chip. -/
theorem Bus.pcdExchange_performed (P : Params) (cmd : ExchangeCommand) (d : List Byte) (b : Bus) :
    ∃ ts, ExchangeRun P cmd d ts (b.pcdExchange P cmd d).1 ∧ Performed P b ts (b.pcdExchange P cmd d).2 := by
  obtain ⟨v0, v1, start, ht, hm, h0⟩ := b.startExchange_performed P cmd d
  obtain ⟨polls, hrun, hlast, h1⟩ := Bus.poll_performed P P.reg.comIrq (exitMask P cmd) xcvPollBudget 0x00
    (b.startExchange P cmd d)
  obtain ⟨v3, h2⟩ := Bus.clearBits_performed P P.reg.bitFraming P.mask.startSend
    (Bus.poll P P.reg.comIrq (exitMask P cmd) xcvPollBudget 0x00 (b.startExchange P cmd d)).bus
  have hrun' : PollRun 2000 (exitBits P cmd) polls
      (Bus.poll P P.reg.comIrq (exitMask P cmd) xcvPollBudget 0x00 (b.startExchange P cmd d)).seen := by
    cases cmd <;> exact hrun
  cases hs : (Bus.poll P P.reg.comIrq (exitMask P cmd) xcvPollBudget 0x00 (b.startExchange P cmd d)).seen with
  | true =>
    obtain ⟨tail, hend, h3⟩ := Bus.finishExchange_performed P cmd
      (Bus.poll P P.reg.comIrq (exitMask P cmd) xcvPollBudget 0x00 (b.startExchange P cmd d)).last
      ((Bus.poll P P.reg.comIrq (exitMask P cmd) xcvPollBudget 0x00 (b.startExchange P cmd d)).bus.clearBits
        P P.reg.bitFraming P.mask.startSend)
    refine ⟨_, ⟨polls, v0, v1, v3, start, tail, true, ht, hm, hs ▸ hrun', ?_, rfl⟩, ?_⟩
    · rw [← hlast, Bus.pcdExchange]
      simpa only [hs, if_true] using hend
    · rw [Bus.pcdExchange]
      simp only [hs, if_true]
      exact ((h0.append h1).append h2).append h3
  | false =>
    refine ⟨_, ⟨polls, v0, v1, v3, start, [], false, ht, hm, hs ▸ hrun', ?_, rfl⟩, ?_⟩
    · rw [Bus.pcdExchange]
      simp only [hs, Bool.false_eq_true, if_false, ExchangeEnd, if_true]
      exact ⟨trivial, rfl⟩
    · rw [Bus.pcdExchange]
      simp only [hs, Bool.false_eq_true, if_false, List.append_nil]
      exact (h0.append h1).append h2

/-- The result of an exchange and the state after it, in which only the bus differs. -/
theorem State.pcdExchange_spec (cmd : ExchangeCommand) (d : List Byte) (s : State) :
    ∃ ts b r, ExchangeRun s.params cmd d ts r ∧ Performed s.params s.bus ts b ∧
      s.pcdExchange cmd d = (r, { s with bus := b }) := by
  obtain ⟨ts, hrun, hp⟩ := s.bus.pcdExchange_performed s.params cmd d
  exact ⟨ts, _, _, hrun, hp, rfl⟩

/-- A frame with its CRC (R148): the bus and the mark of an exhausted CRC poll are all that differ after it. -/
theorem State.exchangeWithCrc_spec (f : List Byte) (s : State) :
    ∃ ts b r seen, FrameRun s.params f ts r seen ∧ Performed s.params s.bus ts b ∧
      s.exchangeWithCrc f = (r, { s with bus := b, crcTimeout := s.crcTimeout || !seen }) := by
  obtain ⟨ts, b, lo, hi, seen, hc, hp, hs⟩ := s.calculateCrc_spec f
  obtain ⟨us, b', r, hx, hq, ht⟩ := State.pcdExchange_spec .transceive (f ++ [lo, hi])
    { s with bus := b, crcTimeout := s.crcTimeout || !seen }
  refine ⟨ts ++ us, b', r, seen, ⟨lo, hi, ts, us, hc, hx, rfl⟩, hp.append hq, ?_⟩
  rw [State.exchangeWithCrc, hs]
  exact ht

end Sys2Proof.Machine
end

