-- ==== Sys2Proof/Laws/PerInstr.lean ====
section
/-! SUPPORT. Statements made per instruction, one lemma per constructor of `Instr`. -/

namespace Sys2Proof.Laws.EncodedLength

/-- The length of an instruction's encoding: 30_encoding.md R87's "total length" column, two bytes for a bus
transaction (R81), one for a chip command code (R92), and the bytes a card frame of R95 has. -/
def tableLength : Instr → Nat
  | .wreg _ _ | .setbits _ _ | .clrbits _ _ => 3
  | .rreg _ | .request _ | .read _ => 2
  | .anton | .antoff | .anticoll | .stopcrypto | .halt | .readuid | .init => 1
  | .crc d | .transceive d => 2 + d.length
  | .select _ => 6
  | .auth _ _ _ _ => 13
  | .write _ _ => 18
  | .busW _ _ | .busR _ => 2
  | .pcdIdle | .pcdCalcCRC | .pcdTransmit | .pcdReceive | .pcdTransceive | .pcdMFAuthent | .pcdSoftReset => 1
  | .piccReqidl | .piccReqall | .piccDecrement | .piccIncrement | .piccRestore | .piccTransfer => 1
  | .piccAnticoll => 2
  | .piccSelect _ _ _ => 9
  | .piccAuth1a _ _ _ | .piccAuth1b _ _ _ => 12
  | .piccRead _ _ _ | .piccWrite _ _ _ | .piccHalt _ _ => 4

/-- A well-formed instruction's encoding has the length the tables give it. -/
def Statement (i : Instr) : Prop := ∀ P : Params, i.wellFormed = true → (encode P i).length = tableLength i

theorem wreg (a v : Byte) : Statement (.wreg a v) := fun _ _ => rfl

theorem rreg (a : Byte) : Statement (.rreg a) := fun _ _ => rfl

theorem setbits (a m : Byte) : Statement (.setbits a m) := fun _ _ => rfl

theorem clrbits (a m : Byte) : Statement (.clrbits a m) := fun _ _ => rfl

theorem anton : Statement .anton := fun _ _ => rfl

theorem antoff : Statement .antoff := fun _ _ => rfl

theorem crc (d : List Byte) : Statement (.crc d) := fun _ _ => by simp [encode, tableLength]; omega

theorem transceive (d : List Byte) : Statement (.transceive d) := fun _ _ => by simp [encode, tableLength]; omega

theorem request (mode : Byte) : Statement (.request mode) := fun _ _ => rfl

theorem anticoll : Statement .anticoll := fun _ _ => rfl

theorem select (u : List Byte) : Statement (.select u) := fun _ h => by
  simp [Instr.wellFormed] at h
  simp [encode, tableLength, h]

theorem auth (mode blk : Byte) (key uid : List Byte) : Statement (.auth mode blk key uid) := fun _ h => by
  simp [Instr.wellFormed] at h
  simp [encode, tableLength, h]

theorem stopcrypto : Statement .stopcrypto := fun _ _ => rfl

theorem read (blk : Byte) : Statement (.read blk) := fun _ _ => rfl

theorem write (blk : Byte) (d : List Byte) : Statement (.write blk d) := fun _ h => by
  simp [Instr.wellFormed] at h
  simp [encode, tableLength, h]

theorem halt : Statement .halt := fun _ _ => rfl

theorem readuid : Statement .readuid := fun _ _ => rfl

theorem init : Statement .init := fun _ _ => rfl

theorem busW (a : RegAddr) (v : Byte) : Statement (.busW a v) := fun _ _ => rfl

theorem busR (a : RegAddr) : Statement (.busR a) := fun _ _ => rfl

theorem pcdIdle : Statement .pcdIdle := fun _ _ => rfl

theorem pcdCalcCRC : Statement .pcdCalcCRC := fun _ _ => rfl

theorem pcdTransmit : Statement .pcdTransmit := fun _ _ => rfl

theorem pcdReceive : Statement .pcdReceive := fun _ _ => rfl

theorem pcdTransceive : Statement .pcdTransceive := fun _ _ => rfl

theorem pcdMFAuthent : Statement .pcdMFAuthent := fun _ _ => rfl

theorem pcdSoftReset : Statement .pcdSoftReset := fun _ _ => rfl

theorem piccReqidl : Statement .piccReqidl := fun _ _ => rfl

theorem piccReqall : Statement .piccReqall := fun _ _ => rfl

theorem piccAnticoll : Statement .piccAnticoll := fun _ _ => rfl

theorem piccSelect (u : List Byte) (lo hi : Byte) : Statement (.piccSelect u lo hi) := fun _ h => by
  simp [Instr.wellFormed] at h
  simp [encode, tableLength, h]

theorem piccAuth1a (blk : Byte) (key uid : List Byte) : Statement (.piccAuth1a blk key uid) := fun _ h => by
  simp [Instr.wellFormed] at h
  simp [encode, tableLength, h]

theorem piccAuth1b (blk : Byte) (key uid : List Byte) : Statement (.piccAuth1b blk key uid) := fun _ h => by
  simp [Instr.wellFormed] at h
  simp [encode, tableLength, h]

theorem piccRead (blk lo hi : Byte) : Statement (.piccRead blk lo hi) := fun _ _ => rfl

theorem piccWrite (blk lo hi : Byte) : Statement (.piccWrite blk lo hi) := fun _ _ => rfl

theorem piccDecrement : Statement .piccDecrement := fun _ _ => rfl

theorem piccIncrement : Statement .piccIncrement := fun _ _ => rfl

theorem piccRestore : Statement .piccRestore := fun _ _ => rfl

theorem piccTransfer : Statement .piccTransfer := fun _ _ => rfl

theorem piccHalt (lo hi : Byte) : Statement (.piccHalt lo hi) := fun _ _ => rfl

end Sys2Proof.Laws.EncodedLength
end

