-- ==== Sys2Proof/Laws/Protocol.lean ====
section
/-! SUPPORT. What the procedures shared by several operations can do, said once: antenna on (ANTON and INIT), `request`
and `anticoll` (each also part of READUID). -/

namespace Sys2Proof.Machine

/-- `antennaOn()` (40_register_access.md R125), for any answers of the chip. -/
theorem Bus.antennaOn_performed (P : Params) (b : Bus) :
    ∃ ts, AntennaOnRun P ts ∧ Performed P b ts (b.antennaOn P) := by
  have hr := b.read_performed P P.reg.txControl
  by_cases h : antennaBitsSet (b.read P P.reg.txControl).1 = true
  · refine ⟨_, ⟨_, .inl ⟨(antennaBitsSet_iff _).mp h, rfl⟩⟩, ?_⟩
    simp only [Bus.antennaOn, h, if_true]
    exact hr
  · obtain ⟨w, hw⟩ := (b.read P P.reg.txControl).2.setBits_performed P P.reg.txControl Mask.antenna
    refine ⟨_, ⟨_, .inr ⟨fun hc => h ((antennaBitsSet_iff _).mpr hc), w, rfl⟩⟩, ?_⟩
    simp only [Bus.antennaOn, h]
    exact hr.append hw

/-- `request(mode)` (43_protocol.md R190): its transactions, its result, and the phase. -/
theorem State.request_spec (mode : Byte) (s : State) :
    ∃ ts r b, RequestRun s.params mode ts r ∧ Performed s.params s.bus ts b ∧
      s.request mode =
        if r.status = .ok ∧ r.bitLength = 16 then (some r.data, { s with bus := b, phase := .requested })
        else (none, { s with bus := b, phase := .idle }) := by
  obtain ⟨ts, b, r, hr, hp, he⟩ :=
    (s.onBus (Bus.write s.params.reg.bitFraming shortFrame)).pcdExchange_spec .transceive [mode]
  refine ⟨_, r, b, ⟨ts, hr, rfl⟩, (Bus.write_performed s.params s.params.reg.bitFraming shortFrame s.bus).append hp, ?_⟩
  simp only [State.request, he, ← requestOk_iff]
  split <;> rfl

/-- `anticoll()` (R195): its transactions, its result, and the phase. -/
theorem State.anticoll_spec (s : State) :
    ∃ ts r b, AnticollRun s.params ts r ∧ Performed s.params s.bus ts b ∧
      s.anticoll =
        match anticollVerdict r with
        | some u => (some u, { s with bus := b, phase := .collisionResolved })
        | none => (none, { s with bus := b, phase := .idle }) := by
  obtain ⟨ts, b, r, hr, hp, he⟩ :=
    (s.onBus (Bus.write s.params.reg.bitFraming s.params.fullFrame)).pcdExchange_spec .transceive (anticollFrame s.params)
  refine ⟨_, r, b, ⟨ts, hr, rfl⟩, (Bus.write_performed s.params s.params.reg.bitFraming s.params.fullFrame s.bus).append hp, ?_⟩
  simp only [State.anticoll, he, anticollUid_eq]
  cases anticollVerdict r <;> rfl

/-- SELECT's duty test (R253) of five bytes. -/
theorem uidBroken_eq (b0 b1 b2 b3 b4 : Byte) :
    uidBroken [b0, b1, b2, b3, b4] = (b0 ^^^ b1 ^^^ b2 ^^^ b3 != b4) := by
  simp only [uidBroken, validUid, uidOfBytes, Uid.valid]
  by_cases h : b0 ^^^ b1 ^^^ b2 ^^^ b3 = b4 <;> simp [h]

end Sys2Proof.Machine
end

