-- ==== Sys2Proof/Laws/StateForms.lean ====
section
/-! SUPPORT. One lemma per field for the updates declared outside Machine/Ops.lean, true by rfl. -/

namespace Sys2Proof.Machine

variable (s : State)

/-! ### `State.issueCommand` -/

@[simp] theorem State.issueCommand_antennaOn (c : Byte) : (s.issueCommand c).antennaOn = s.antennaOn := rfl
@[simp] theorem State.issueCommand_authenticated (c : Byte) : (s.issueCommand c).authenticated = s.authenticated := rfl
@[simp] theorem State.issueCommand_phase (c : Byte) : (s.issueCommand c).phase = s.phase := rfl
@[simp] theorem State.issueCommand_initialised (c : Byte) : (s.issueCommand c).initialised = s.initialised := rfl
@[simp] theorem State.issueCommand_opIndex (c : Byte) : (s.issueCommand c).opIndex = s.opIndex := rfl
@[simp] theorem State.issueCommand_crcTimeout (c : Byte) : (s.issueCommand c).crcTimeout = s.crcTimeout := rfl
@[simp] theorem State.issueCommand_hostDuty (c : Byte) : (s.issueCommand c).hostDuty = s.hostDuty := rfl
@[simp] theorem State.issueCommand_refused (c : Byte) : (s.issueCommand c).refused = s.refused := rfl
@[simp] theorem State.issueCommand_bus (c : Byte) : (s.issueCommand c).bus = s.bus.write s.params.reg.command c := rfl
@[simp] theorem State.issueCommand_results (c : Byte) : (s.issueCommand c).results = s.results := rfl
@[simp] theorem State.issueCommand_pending (c : Byte) : (s.issueCommand c).pending = s.pending := rfl
@[simp] theorem State.issueCommand_params (c : Byte) : (s.issueCommand c).params = s.params := rfl

/-! ### `State.loadFrame` -/

@[simp] theorem State.loadFrame_antennaOn (f : List Byte) : (s.loadFrame f).antennaOn = s.antennaOn := rfl
@[simp] theorem State.loadFrame_authenticated (f : List Byte) : (s.loadFrame f).authenticated = s.authenticated := rfl
@[simp] theorem State.loadFrame_phase (f : List Byte) : (s.loadFrame f).phase = s.phase := rfl
@[simp] theorem State.loadFrame_initialised (f : List Byte) : (s.loadFrame f).initialised = s.initialised := rfl
@[simp] theorem State.loadFrame_opIndex (f : List Byte) : (s.loadFrame f).opIndex = s.opIndex := rfl
@[simp] theorem State.loadFrame_crcTimeout (f : List Byte) : (s.loadFrame f).crcTimeout = s.crcTimeout := rfl
@[simp] theorem State.loadFrame_hostDuty (f : List Byte) : (s.loadFrame f).hostDuty = s.hostDuty := rfl
@[simp] theorem State.loadFrame_refused (f : List Byte) : (s.loadFrame f).refused = s.refused := rfl
@[simp] theorem State.loadFrame_bus (f : List Byte) : (s.loadFrame f).bus = s.bus.load s.params.reg.fifoData f := rfl
@[simp] theorem State.loadFrame_results (f : List Byte) : (s.loadFrame f).results = s.results := rfl
@[simp] theorem State.loadFrame_pending (f : List Byte) : (s.loadFrame f).pending = s.pending := rfl
@[simp] theorem State.loadFrame_params (f : List Byte) : (s.loadFrame f).params = s.params := rfl

/-! ### `State.present` -/

@[simp] theorem State.present_antennaOn (p : Port) (bs : List Byte) : (s.present p bs).antennaOn = s.antennaOn := rfl
@[simp] theorem State.present_authenticated (p : Port) (bs : List Byte) : (s.present p bs).authenticated = s.authenticated := rfl
@[simp] theorem State.present_phase (p : Port) (bs : List Byte) : (s.present p bs).phase = s.phase := rfl
@[simp] theorem State.present_initialised (p : Port) (bs : List Byte) : (s.present p bs).initialised = s.initialised := rfl
@[simp] theorem State.present_opIndex (p : Port) (bs : List Byte) : (s.present p bs).opIndex = s.opIndex := rfl
@[simp] theorem State.present_crcTimeout (p : Port) (bs : List Byte) : (s.present p bs).crcTimeout = s.crcTimeout := rfl
@[simp] theorem State.present_hostDuty (p : Port) (bs : List Byte) : (s.present p bs).hostDuty = s.hostDuty := rfl
@[simp] theorem State.present_refused (p : Port) (bs : List Byte) : (s.present p bs).refused = s.refused := rfl
@[simp] theorem State.present_bus (p : Port) (bs : List Byte) : (s.present p bs).bus = s.bus := rfl
@[simp] theorem State.present_results (p : Port) (bs : List Byte) : (s.present p bs).results = s.results := rfl
@[simp] theorem State.present_pending (p : Port) (bs : List Byte) : (s.present p bs).pending = .bytes p bs :: s.pending := rfl
@[simp] theorem State.present_params (p : Port) (bs : List Byte) : (s.present p bs).params = s.params := rfl

/-! ### `State.presentTerms` -/

@[simp] theorem State.presentTerms_antennaOn (is : List Instr) : (s.presentTerms is).antennaOn = s.antennaOn := rfl
@[simp] theorem State.presentTerms_authenticated (is : List Instr) : (s.presentTerms is).authenticated = s.authenticated := rfl
@[simp] theorem State.presentTerms_phase (is : List Instr) : (s.presentTerms is).phase = s.phase := rfl
@[simp] theorem State.presentTerms_initialised (is : List Instr) : (s.presentTerms is).initialised = s.initialised := rfl
@[simp] theorem State.presentTerms_opIndex (is : List Instr) : (s.presentTerms is).opIndex = s.opIndex := rfl
@[simp] theorem State.presentTerms_crcTimeout (is : List Instr) : (s.presentTerms is).crcTimeout = s.crcTimeout := rfl
@[simp] theorem State.presentTerms_hostDuty (is : List Instr) : (s.presentTerms is).hostDuty = s.hostDuty := rfl
@[simp] theorem State.presentTerms_refused (is : List Instr) : (s.presentTerms is).refused = s.refused := rfl
@[simp] theorem State.presentTerms_bus (is : List Instr) : (s.presentTerms is).bus = s.bus := rfl
@[simp] theorem State.presentTerms_results (is : List Instr) : (s.presentTerms is).results = s.results := rfl
@[simp] theorem State.presentTerms_pending (is : List Instr) : (s.presentTerms is).pending = s.pending ++ is.map .term := rfl
@[simp] theorem State.presentTerms_params (is : List Instr) : (s.presentTerms is).params = s.params := rfl

/-! ### `State.after` -/

@[simp] theorem State.after_antennaOn (b : Bus) (r : Result) (d : Bool) : (s.after b r d).antennaOn = s.antennaOn := rfl
@[simp] theorem State.after_authenticated (b : Bus) (r : Result) (d : Bool) : (s.after b r d).authenticated = s.authenticated := rfl
@[simp] theorem State.after_phase (b : Bus) (r : Result) (d : Bool) : (s.after b r d).phase = s.phase := rfl
@[simp] theorem State.after_initialised (b : Bus) (r : Result) (d : Bool) : (s.after b r d).initialised = s.initialised := rfl
@[simp] theorem State.after_opIndex (b : Bus) (r : Result) (d : Bool) : (s.after b r d).opIndex = s.opIndex + 1 := rfl
@[simp] theorem State.after_crcTimeout (b : Bus) (r : Result) (d : Bool) : (s.after b r d).crcTimeout = s.crcTimeout := rfl
@[simp] theorem State.after_hostDuty (b : Bus) (r : Result) (d : Bool) : (s.after b r d).hostDuty = (s.hostDuty || !s.initialised || d) := rfl
@[simp] theorem State.after_refused (b : Bus) (r : Result) (d : Bool) : (s.after b r d).refused = s.refused := rfl
@[simp] theorem State.after_bus (b : Bus) (r : Result) (d : Bool) : (s.after b r d).bus = b := rfl
@[simp] theorem State.after_results (b : Bus) (r : Result) (d : Bool) : (s.after b r d).results = s.results ++ [r] := rfl
@[simp] theorem State.after_pending (b : Bus) (r : Result) (d : Bool) : (s.after b r d).pending = s.pending := rfl
@[simp] theorem State.after_params (b : Bus) (r : Result) (d : Bool) : (s.after b r d).params = s.params := rfl

/-! ### `State.afterRefusal` -/

@[simp] theorem State.afterRefusal_antennaOn (e : RefusalReason) : (s.afterRefusal e).antennaOn = s.antennaOn := rfl
@[simp] theorem State.afterRefusal_authenticated (e : RefusalReason) : (s.afterRefusal e).authenticated = s.authenticated := rfl
@[simp] theorem State.afterRefusal_phase (e : RefusalReason) : (s.afterRefusal e).phase = s.phase := rfl
@[simp] theorem State.afterRefusal_initialised (e : RefusalReason) : (s.afterRefusal e).initialised = s.initialised := rfl
@[simp] theorem State.afterRefusal_opIndex (e : RefusalReason) : (s.afterRefusal e).opIndex = s.opIndex + 1 := rfl
@[simp] theorem State.afterRefusal_crcTimeout (e : RefusalReason) : (s.afterRefusal e).crcTimeout = s.crcTimeout := rfl
@[simp] theorem State.afterRefusal_hostDuty (e : RefusalReason) : (s.afterRefusal e).hostDuty = s.hostDuty := rfl
@[simp] theorem State.afterRefusal_refused (e : RefusalReason) : (s.afterRefusal e).refused = true := rfl
@[simp] theorem State.afterRefusal_bus (e : RefusalReason) : (s.afterRefusal e).bus = s.bus := rfl
@[simp] theorem State.afterRefusal_results (e : RefusalReason) : (s.afterRefusal e).results = s.results ++ [.refused e] := rfl
@[simp] theorem State.afterRefusal_pending (e : RefusalReason) : (s.afterRefusal e).pending = s.pending := rfl
@[simp] theorem State.afterRefusal_params (e : RefusalReason) : (s.afterRefusal e).params = s.params := rfl

end Sys2Proof.Machine
end

