-- ==== Sys2Proof/Tests/Slice0.lean ====
section
/-! SUPPORT. Tests: every expected value comes from spec/ (the words of 30_encoding.md, the vectors of
95_test_vectors.md), each about one step; then one witness for every statement that has hypotheses. -/

namespace Sys2Proof.Tests

open Sys2Proof.Machine

/-! ### Helpers -/

/-- The state a step answers; the reset state where it answers none. -/
def run (s : State) : State :=
  match step s with
  | .next t => t
  | _ => State.reset

/-- A fresh engine with host bytes presented and the chip's answers. -/
def fresh (bs answers : List Byte) : State :=
  { State.reset with pending := [.bytes .host bs], bus := { Bus.fresh with answers := answers } }

/-- An initialised engine with nothing else done. -/
def idleReady (bs answers : List Byte) : State := { fresh bs answers with initialised := true }

/-- An initialised engine in an authenticated session, the antenna on. -/
def sessionReady (bs answers : List Byte) : State :=
  { idleReady bs answers with antennaOn := true, authenticated := true, phase := .authenticated }

/-- An initialised engine with bytes of another space presented. -/
def formReady (p : Port) (bs answers : List Byte) : State :=
  { idleReady [] answers with pending := [.bytes p bs] }

/-! ### Well-formedness: each check refuses an ill-formed term -/

theorem test_wellFormed_refuses :
    (Instr.crc (List.replicate 256 0)).wellFormed = false ∧
    (Instr.transceive (List.replicate 256 0)).wellFormed = false ∧
    (Instr.select [1, 2, 3, 4]).wellFormed = false ∧
    (Instr.auth 0x60 4 [1, 2, 3, 4, 5] [1, 2, 3, 4]).wellFormed = false ∧
    (Instr.auth 0x60 4 [1, 2, 3, 4, 5, 6] [1, 2, 3, 4, 5]).wellFormed = false ∧
    (Instr.write 4 (List.replicate 15 0xAA)).wellFormed = false ∧
    (Instr.piccSelect [1, 2, 3, 4, 5, 6] 0 0).wellFormed = false ∧
    (Instr.piccAuth1a 4 [1, 2, 3, 4, 5, 6, 7] [1, 2, 3, 4]).wellFormed = false ∧
    (Instr.piccAuth1b 4 [1, 2, 3, 4, 5, 6] [1, 2, 3]).wellFormed = false := by decide +kernel

/-! ### Decoding: a word of every constructor, written out from 30_encoding.md R87, R83, R84, R92, R94, R95 -/

theorem test_decode_host_register_words :
    decode .default .host [0x01, 0x41, 0x0F] = .ok (.wreg 0x41 0x0F, []) ∧
    decode .default .host [0x02, 0x08] = .ok (.rreg 0x08, []) ∧
    decode .default .host [0x03, 0x0D, 0x80] = .ok (.setbits 0x0D 0x80, []) ∧
    decode .default .host [0x04, 0x08, 0x08] = .ok (.clrbits 0x08 0x08, []) ∧
    decode .default .host [0x05] = .ok (.anton, []) ∧
    decode .default .host [0x06] = .ok (.antoff, []) ∧
    decode .default .host [0x07, 0x00] = .ok (.crc [], []) ∧
    decode .default .host [0x08, 0x01, 0x26] = .ok (.transceive [0x26], []) :=
  ⟨rfl, rfl, rfl, rfl, rfl, rfl, rfl, rfl⟩

theorem test_decode_host_protocol_words :
    decode .default .host [0x09, 0x26] = .ok (.request 0x26, []) ∧
    decode .default .host [0x0A] = .ok (.anticoll, []) ∧
    decode .default .host [0x0B, 0x12, 0x34, 0x56, 0x78, 0x08] = .ok (.select [0x12, 0x34, 0x56, 0x78, 0x08], []) ∧
    decode .default .host [0x0C, 0x60, 0x04, 1, 2, 3, 4, 5, 6, 7, 8, 9, 10] =
      .ok (.auth 0x60 0x04 [1, 2, 3, 4, 5, 6] [7, 8, 9, 10], []) ∧
    decode .default .host [0x0D] = .ok (.stopcrypto, []) ∧
    decode .default .host [0x0E, 0x04] = .ok (.read 0x04, []) ∧
    decode .default .host [0x0F, 0x04, 1, 2, 3, 4, 5, 6, 7, 8, 9, 10, 11, 12, 13, 14, 15, 16] =
      .ok (.write 0x04 [1, 2, 3, 4, 5, 6, 7, 8, 9, 10, 11, 12, 13, 14, 15, 16], []) ∧
    decode .default .host [0x10] = .ok (.halt, []) ∧
    decode .default .host [0x11] = .ok (.readuid, []) ∧
    decode .default .host [0x12] = .ok (.init, []) :=
  ⟨rfl, rfl, rfl, rfl, rfl, rfl, rfl, rfl, rfl, rfl⟩

theorem test_decode_bus_and_command_words :
    decode .default .bus [0x7E, 0x0F] = .ok (.busW 0x3F 0x0F, []) ∧
    decode .default .bus [0xC4, 0x00] = .ok (.busR 0x22, []) ∧
    decode .default .chipCommand [0x00] = .ok (.pcdIdle, []) ∧
    decode .default .chipCommand [0x03] = .ok (.pcdCalcCRC, []) ∧
    decode .default .chipCommand [0x04] = .ok (.pcdTransmit, []) ∧
    decode .default .chipCommand [0x08] = .ok (.pcdReceive, []) ∧
    decode .default .chipCommand [0x0C] = .ok (.pcdTransceive, []) ∧
    decode .default .chipCommand [0x0E] = .ok (.pcdMFAuthent, []) ∧
    decode .default .chipCommand [0x0F] = .ok (.pcdSoftReset, []) :=
  ⟨rfl, rfl, rfl, rfl, rfl, rfl, rfl, rfl, rfl⟩

theorem test_decode_card_words :
    decode .default .cardFrame [0x26] = .ok (.piccReqidl, []) ∧
    decode .default .cardFrame [0x52] = .ok (.piccReqall, []) ∧
    decode .default .cardFrame [0x93, 0x20] = .ok (.piccAnticoll, []) ∧
    decode .default .cardFrame [0x93, 0x70, 0x12, 0x34, 0x56, 0x78, 0x08, 0x3C, 0xA2] =
      .ok (.piccSelect [0x12, 0x34, 0x56, 0x78, 0x08] 0x3C 0xA2, []) ∧
    decode .default .cardFrame [0x60, 4, 1, 2, 3, 4, 5, 6, 7, 8, 9, 10] =
      .ok (.piccAuth1a 4 [1, 2, 3, 4, 5, 6] [7, 8, 9, 10], []) ∧
    decode .default .cardFrame [0x61, 4, 1, 2, 3, 4, 5, 6, 7, 8, 9, 10] =
      .ok (.piccAuth1b 4 [1, 2, 3, 4, 5, 6] [7, 8, 9, 10], []) ∧
    decode .default .cardFrame [0x30, 0x04, 0x26, 0xEE] = .ok (.piccRead 0x04 0x26 0xEE, []) ∧
    decode .default .cardFrame [0xA0, 0x04, 0x7B, 0xF7] = .ok (.piccWrite 0x04 0x7B 0xF7, []) ∧
    decode .default .cardFrame [0xC0] = .ok (.piccDecrement, []) ∧
    decode .default .cardFrame [0xC1] = .ok (.piccIncrement, []) ∧
    decode .default .cardFrame [0xC2] = .ok (.piccRestore, []) ∧
    decode .default .cardFrame [0xB0] = .ok (.piccTransfer, []) ∧
    decode .default .cardFrame [0x50, 0x00, 0x57, 0xCD] = .ok (.piccHalt 0x57 0xCD, []) :=
  ⟨rfl, rfl, rfl, rfl, rfl, rfl, rfl, rfl, rfl, rfl, rfl, rfl, rfl⟩

theorem test_decode_rejects_by_name :
    decode .default .host [0x13, 0x10] = .error (.unknownSelector 0x13) ∧
    decode .default .host [0x01, 0x05] = .error .truncated ∧
    decode .default .bus [0x03, 0x00] = .error (.reservedBus 0x03) ∧
    decode .default .bus [0x82, 0x01] = .error (.reservedBus 0x01) ∧
    decode .default .chipCommand [0x1C] = .error (.reservedCommand 0x1C) ∧
    decode .default .cardFrame [0x50, 0x01, 0, 0] = .error (.unknownFrame 0x01) :=
  ⟨rfl, rfl, rfl, rfl, rfl, rfl⟩

/-! ### Opcode-table words -/

/-- The rows' `match` values of spec/opcode_table.json. -/
theorem test_table_words :
    decodeTableWord 8 0x01 = some (.wreg 0 0) ∧ decodeTableWord 8 0x07 = some (.crc []) ∧
    decodeTableWord 8 0x0F = some (.write 0 (List.replicate 16 0)) ∧ decodeTableWord 8 0x12 = some .init ∧
    decodeTableWord 16 0x0000 = some (.busW 0 0) ∧ decodeTableWord 16 0x0080 = some (.busR 0) ∧
    decodeTableWord 8 0x00 = some .pcdIdle ∧ decodeTableWord 8 0x26 = some .piccReqidl ∧
    decodeTableWord 16 0x9320 = some .piccAnticoll ∧ decodeTableWord 16 0x5000 = some (.piccHalt 0 0) ∧
    decodeTableWord 8 0xB0 = some .piccTransfer := by decide +kernel

/-- `withFetchWord` presents exactly the word's instruction. -/
theorem test_fetch_word :
    (run (State.reset.withFetchWord 8 0x01)).bus.trace = [.write 0x00 0x00] ∧
    (run (State.reset.withFetchWord 8 0x01)).pending = [] ∧
    (run (State.reset.withFetchWord 16 0x9320)).bus.trace = [.write 0x09 0x93, .write 0x09 0x20] := by
  decide +kernel

/-! ### Bus lines (L2-1) -/

/-- "A write `W(01,0F)` is the two bytes `02 0F`. A read of `Status2` sends `90 00`". -/
theorem test_bus_lines :
    (run (formReady .bus [0x02, 0x0F] [])).bus.wire = [.csAssert, .send 0x02, .send 0x0F, .csRelease] ∧
    (run (formReady .bus [0x90, 0x00] [0x5A])).bus.wire =
      [.csAssert, .send 0x90, .exchange 0x00 0x5A, .csRelease] ∧
    (run (formReady .bus [0x90, 0x00] [0x5A])).opIndex = 0 := by decide +kernel

theorem test_chip_commands :
    (run (formReady .chipCommand [0x00] [])).bus.trace = [.write 0x01 0x00] ∧
    (run (formReady .chipCommand [0x03] [])).bus.trace = [.write 0x01 0x03] ∧
    (run (formReady .chipCommand [0x04] [])).bus.trace = [.write 0x01 0x04] ∧
    (run (formReady .chipCommand [0x08] [])).bus.trace = [.write 0x01 0x08] ∧
    (run (formReady .chipCommand [0x0C] [])).bus.trace = [.write 0x01 0x0C] ∧
    (run (formReady .chipCommand [0x0E] [])).bus.trace = [.write 0x01 0x0E] ∧
    (run (formReady .chipCommand [0x0F] [])).bus.trace = [.write 0x01 0x0F] := by decide +kernel

theorem test_card_frames :
    (run (formReady .cardFrame [0x50, 0x00, 0x57, 0xCD] [])).bus.trace =
      [.write 0x09 0x50, .write 0x09 0x00, .write 0x09 0x57, .write 0x09 0xCD] ∧
    (run (formReady .cardFrame [0x30, 0x04, 0x26, 0xEE] [])).bus.trace =
      [.write 0x09 0x30, .write 0x09 0x04, .write 0x09 0x26, .write 0x09 0xEE] ∧
    (run (formReady .cardFrame [0xC1] [])).bus.trace = [.write 0x09 0xC1] := by decide +kernel

/-! ### Host operations: the vectors of L1 to L3 -/

/-- 95_test_vectors.md L2-2: `WREG 0x41, 0x0F`, the address folded. -/
theorem test_wreg :
    let t := run (idleReady [0x01, 0x41, 0x0F]
      [])
    t.bus.trace =
      [.write 0x01 0x0F] ∧
    t.results = [.unit] := by decide +kernel

/-- L2-2: `RREG Status2`. -/
theorem test_rreg :
    let t := run (idleReady [0x02, 0x08]
      [0x08])
    t.bus.trace =
      [.read 0x08 0x08] ∧
    t.results = [.byte 0x08] := by decide +kernel

/-- L2-2: `SETBITS BitFraming, 0x80`; the read comes first. -/
theorem test_setbits :
    let t := run (idleReady [0x03, 0x0D, 0x80]
      [0x07])
    t.bus.trace =
      [.read 0x0D 0x07, .write 0x0D 0x87] ∧
    t.results = [.unit] := by decide +kernel

/-- L2-2: `CLRBITS Status2, 0x08`. -/
theorem test_clrbits :
    let t := run (idleReady [0x04, 0x08, 0x08]
      [0x0C])
    t.bus.trace =
      [.read 0x08 0x0C, .write 0x08 0x04] ∧
    t.results = [.unit] := by decide +kernel

/-- L2-2: `ANTON` answered 0x82, 0x80: the second read is fresh. -/
theorem test_anton :
    let t := run (idleReady [0x05]
      [0x82, 0x80])
    t.bus.trace =
      [.read 0x14 0x82, .read 0x14 0x80, .write 0x14 0x83] ∧
    t.antennaOn = true := by decide +kernel

/-- L2-2: `ANTON` with both bits set performs no write. -/
theorem test_anton_both_set :
    let t := run (idleReady [0x05]
      [0x83])
    t.bus.trace =
      [.read 0x14 0x83] ∧
    t.antennaOn = true := by decide +kernel

/-- L2-2: `ANTOFF` from `Authenticated` leaves `authenticated` (R126). -/
theorem test_antoff :
    let t := run (sessionReady [0x06]
      [0x83])
    t.bus.trace =
      [.read 0x14 0x83, .write 0x14 0x80] ∧
    t.antennaOn = false ∧ t.authenticated = true ∧ t.phase = .idle := by decide +kernel

/-- L2-3: `CRC [30, 00]`. -/
theorem test_crc :
    let t := run (idleReady [0x07, 0x02, 0x30, 0x00]
      [0x00, 0x00, 0x04, 0x02, 0xA8])
    t.bus.trace =
      [.read 0x05 0x00, .write 0x05 0x00, .read 0x0A 0x00, .write 0x0A 0x80, .write 0x09 0x30, .write 0x09 0x00,
      .write 0x01 0x03, .read 0x05 0x04, .read 0x22 0x02, .read 0x21 0xA8] ∧
    t.results = [.crcPair 0x02 0xA8] ∧ t.crcTimeout = false := by decide +kernel

/-- L2-4: `TRANSCEIVE [0x26]`, 18 transactions. -/
theorem test_transceive :
    let t := run (idleReady [0x08, 0x01, 0x26]
      [0x00, 0x00, 0x00, 0x30, 0x80, 0x00, 0x02, 0x00, 0x44, 0x00])
    t.bus.trace =
      [.write 0x02 0xF7, .read 0x04 0x00, .write 0x04 0x00, .read 0x0A 0x00, .write 0x0A 0x80, .write 0x01 0x00,
      .write 0x09 0x26, .write 0x01 0x0C, .read 0x0D 0x00, .write 0x0D 0x80, .read 0x04 0x30, .read 0x0D 0x80,
      .write 0x0D 0x00, .read 0x06 0x00, .read 0x0A 0x02, .read 0x0C 0x00, .read 0x09 0x44, .read 0x09 0x00] ∧
    t.results = [.transceive ⟨.ok, [0x44, 0x00], 16⟩] ∧ t.phase = .idle := by decide +kernel

/-- L2-4: poll 0x01 with `Error` 0x10: the error comes before the timer, and nothing is drained. -/
theorem test_transceive_error_first :
    let t := run (idleReady [0x08, 0x01, 0x26]
      [0x00, 0x00, 0x00, 0x40, 0x01, 0x80, 0x10])
    t.bus.trace =
      [.write 0x02 0xF7, .read 0x04 0x00, .write 0x04 0x00, .read 0x0A 0x00, .write 0x0A 0x80, .write 0x01 0x00,
      .write 0x09 0x26, .write 0x01 0x0C, .read 0x0D 0x00, .write 0x0D 0x80, .read 0x04 0x40, .read 0x04 0x01,
      .read 0x0D 0x80, .write 0x0D 0x00, .read 0x06 0x10] ∧
    t.results = [.transceive ⟨.err, [], 0⟩] := by decide +kernel

/-- L1-7: REQUEST with mode REQIDL, 19 transactions. -/
theorem test_request :
    let t := run (idleReady [0x09, 0x26]
      [0x00, 0x00, 0x07, 0x30, 0x87, 0x00, 0x02, 0x00, 0x44, 0x00])
    t.bus.trace =
      [.write 0x0D 0x07, .write 0x02 0xF7, .read 0x04 0x00, .write 0x04 0x00, .read 0x0A 0x00, .write 0x0A 0x80,
      .write 0x01 0x00, .write 0x09 0x26, .write 0x01 0x0C, .read 0x0D 0x07, .write 0x0D 0x87, .read 0x04 0x30,
      .read 0x0D 0x87, .write 0x0D 0x07, .read 0x06 0x00, .read 0x0A 0x02, .read 0x0C 0x00, .read 0x09 0x44,
      .read 0x09 0x00] ∧
    t.results = [.request .ok [0x44, 0x00]] ∧ t.phase = .requested := by decide +kernel

/-- L1-4: level 2 with 7 valid bits is 15 bits, so REQUEST fails. -/
theorem test_request_fifteen_bits :
    let t := run (idleReady [0x09, 0x26]
      [0x00, 0x00, 0x07, 0x30, 0x87, 0x00, 0x02, 0x07, 0x44, 0x00])
    t.bus.trace =
      [.write 0x0D 0x07, .write 0x02 0xF7, .read 0x04 0x00, .write 0x04 0x00, .read 0x0A 0x00, .write 0x0A 0x80,
      .write 0x01 0x00, .write 0x09 0x26, .write 0x01 0x0C, .read 0x0D 0x07, .write 0x0D 0x87, .read 0x04 0x30,
      .read 0x0D 0x87, .write 0x0D 0x07, .read 0x06 0x00, .read 0x0A 0x02, .read 0x0C 0x07, .read 0x09 0x44,
      .read 0x09 0x00] ∧
    t.results = [.request .err []] ∧ t.phase = .idle := by decide +kernel

/-- L1-8, corrected: the UID of 12 34 56 78 08. -/
theorem test_anticoll :
    let t := run (idleReady [0x0A]
      [0x30, 0x00, 0x00, 0x30, 0x80, 0x00, 0x05, 0x00, 0x12, 0x34, 0x56, 0x78, 0x08])
    t.bus.trace =
      [.write 0x0D 0x00, .write 0x02 0xF7, .read 0x04 0x30, .write 0x04 0x30, .read 0x0A 0x00, .write 0x0A 0x80,
      .write 0x01 0x00, .write 0x09 0x93, .write 0x09 0x20, .write 0x01 0x0C, .read 0x0D 0x00, .write 0x0D 0x80,
      .read 0x04 0x30, .read 0x0D 0x80, .write 0x0D 0x00, .read 0x06 0x00, .read 0x0A 0x05, .read 0x0C 0x00,
      .read 0x09 0x12, .read 0x09 0x34, .read 0x09 0x56, .read 0x09 0x78, .read 0x09 0x08] ∧
    t.results = [.anticoll .ok (some ⟨0x12, 0x34, 0x56, 0x78, 0x08⟩)] ∧ t.phase = .collisionResolved := by decide +kernel

/-- L1-8 as given (90_conflicts.md C6): the checksum 0x1A does not match. -/
theorem test_anticoll_bad_checksum :
    let t := run (idleReady [0x0A]
      [0x30, 0x00, 0x00, 0x30, 0x80, 0x00, 0x05, 0x00, 0x12, 0x34, 0x56, 0x78, 0x1A])
    t.bus.trace =
      [.write 0x0D 0x00, .write 0x02 0xF7, .read 0x04 0x30, .write 0x04 0x30, .read 0x0A 0x00, .write 0x0A 0x80,
      .write 0x01 0x00, .write 0x09 0x93, .write 0x09 0x20, .write 0x01 0x0C, .read 0x0D 0x00, .write 0x0D 0x80,
      .read 0x04 0x30, .read 0x0D 0x80, .write 0x0D 0x00, .read 0x06 0x00, .read 0x0A 0x05, .read 0x0C 0x00,
      .read 0x09 0x12, .read 0x09 0x34, .read 0x09 0x56, .read 0x09 0x78, .read 0x09 0x1A] ∧
    t.results = [.anticoll .err none] ∧ t.phase = .idle := by decide +kernel

/-- L3 P2 operation 3, 42 transactions. -/
theorem test_select :
    let t := run (idleReady [0x0B, 0x12, 0x34, 0x56, 0x78, 0x08]
      [0x00, 0x00, 0x04, 0x3C, 0xA2, 0x30, 0x07, 0x00, 0x30, 0x80, 0x00, 0x03, 0x00, 0x08, 0xB6, 0xDD])
    t.bus.trace =
      [.read 0x05 0x00, .write 0x05 0x00, .read 0x0A 0x00, .write 0x0A 0x80, .write 0x09 0x93, .write 0x09 0x70,
      .write 0x09 0x12, .write 0x09 0x34, .write 0x09 0x56, .write 0x09 0x78, .write 0x09 0x08, .write 0x01 0x03,
      .read 0x05 0x04, .read 0x22 0x3C, .read 0x21 0xA2, .write 0x02 0xF7, .read 0x04 0x30, .write 0x04 0x30,
      .read 0x0A 0x07, .write 0x0A 0x87, .write 0x01 0x00, .write 0x09 0x93, .write 0x09 0x70, .write 0x09 0x12,
      .write 0x09 0x34, .write 0x09 0x56, .write 0x09 0x78, .write 0x09 0x08, .write 0x09 0x3C, .write 0x09 0xA2,
      .write 0x01 0x0C, .read 0x0D 0x00, .write 0x0D 0x80, .read 0x04 0x30, .read 0x0D 0x80, .write 0x0D 0x00,
      .read 0x06 0x00, .read 0x0A 0x03, .read 0x0C 0x00, .read 0x09 0x08, .read 0x09 0xB6, .read 0x09 0xDD] ∧
    t.results = [.sak 0x08] ∧ t.phase = .selected ∧ t.hostDuty = false := by decide +kernel

/-- L2-5: SELECT with an invalid checksum is sent all the same, and marked. -/
theorem test_select_bad_checksum :
    let t := run (idleReady [0x0B, 0x12, 0x34, 0x56, 0x78, 0x1A]
      [0x00, 0x00, 0x04, 0xAF, 0x91, 0x30, 0x07, 0x00, 0x30, 0x80, 0x00, 0x03, 0x00, 0x08, 0xB6, 0xDD])
    t.bus.trace =
      [.read 0x05 0x00, .write 0x05 0x00, .read 0x0A 0x00, .write 0x0A 0x80, .write 0x09 0x93, .write 0x09 0x70,
      .write 0x09 0x12, .write 0x09 0x34, .write 0x09 0x56, .write 0x09 0x78, .write 0x09 0x1A, .write 0x01 0x03,
      .read 0x05 0x04, .read 0x22 0xAF, .read 0x21 0x91, .write 0x02 0xF7, .read 0x04 0x30, .write 0x04 0x30,
      .read 0x0A 0x07, .write 0x0A 0x87, .write 0x01 0x00, .write 0x09 0x93, .write 0x09 0x70, .write 0x09 0x12,
      .write 0x09 0x34, .write 0x09 0x56, .write 0x09 0x78, .write 0x09 0x1A, .write 0x09 0xAF, .write 0x09 0x91,
      .write 0x01 0x0C, .read 0x0D 0x00, .write 0x0D 0x80, .read 0x04 0x30, .read 0x0D 0x80, .write 0x0D 0x00,
      .read 0x06 0x00, .read 0x0A 0x03, .read 0x0C 0x00, .read 0x09 0x08, .read 0x09 0xB6, .read 0x09 0xDD] ∧
    t.results = [.sak 0x08] ∧ t.phase = .selected ∧ t.hostDuty = true := by decide +kernel

/-- L3 P2 operation 4, 24 transactions. -/
theorem test_auth :
    let t := run (idleReady [0x0C, 0x60, 0x04, 0xFF, 0xFF, 0xFF, 0xFF, 0xFF, 0xFF, 0x12, 0x34, 0x56, 0x78]
      [0x30, 0x00, 0x10, 0x00, 0x00, 0x08])
    t.bus.trace =
      [.write 0x02 0x92, .read 0x04 0x30, .write 0x04 0x30, .read 0x0A 0x00, .write 0x0A 0x80, .write 0x01 0x00,
      .write 0x09 0x60, .write 0x09 0x04, .write 0x09 0xFF, .write 0x09 0xFF, .write 0x09 0xFF, .write 0x09 0xFF,
      .write 0x09 0xFF, .write 0x09 0xFF, .write 0x09 0x12, .write 0x09 0x34, .write 0x09 0x56, .write 0x09 0x78,
      .write 0x01 0x0E, .read 0x04 0x10, .read 0x0D 0x00, .write 0x0D 0x00, .read 0x06 0x00, .read 0x08 0x08] ∧
    t.results = [.authOk] ∧ t.phase = .authenticated ∧ t.authenticated = true := by decide +kernel

/-- L1-5: `Status2` 0xF7 has every bit but 3, so AUTH fails; a session there was stays (L2-5). -/
theorem test_auth_crypto_bit_clear :
    let t := run (sessionReady [0x0C, 0x60, 0x04, 0xFF, 0xFF, 0xFF, 0xFF, 0xFF, 0xFF, 0x12, 0x34, 0x56, 0x78]
      [0x30, 0x00, 0x10, 0x00, 0x00, 0xF7])
    t.bus.trace =
      [.write 0x02 0x92, .read 0x04 0x30, .write 0x04 0x30, .read 0x0A 0x00, .write 0x0A 0x80, .write 0x01 0x00,
      .write 0x09 0x60, .write 0x09 0x04, .write 0x09 0xFF, .write 0x09 0xFF, .write 0x09 0xFF, .write 0x09 0xFF,
      .write 0x09 0xFF, .write 0x09 0xFF, .write 0x09 0x12, .write 0x09 0x34, .write 0x09 0x56, .write 0x09 0x78,
      .write 0x01 0x0E, .read 0x04 0x10, .read 0x0D 0x00, .write 0x0D 0x00, .read 0x06 0x00, .read 0x08 0xF7] ∧
    t.results = [.authenticationError] ∧ t.phase = .authenticated ∧ t.authenticated = true := by decide +kernel

/-- L3 P2 operation 6. -/
theorem test_stopcrypto :
    let t := run (sessionReady [0x0D]
      [0x08])
    t.bus.trace =
      [.read 0x08 0x08, .write 0x08 0x00] ∧
    t.results = [.unit] ∧ t.phase = .selected ∧ t.authenticated = false := by decide +kernel

/-- L3 P2 operation 5: 18 bytes answered, 16 drained. -/
theorem test_read :
    let t := run (sessionReady [0x0E, 0x04]
      [0x04, 0x00, 0x04, 0x26, 0xEE, 0x10, 0x02, 0x00, 0x30, 0x80, 0x00, 0x12, 0x00, 0x00, 0x01, 0x02, 0x03, 0x04, 0x05, 0x06, 0x07, 0x08, 0x09, 0x0A, 0x0B, 0x0C, 0x0D, 0x0E, 0x0F])
    t.bus.trace =
      [.read 0x05 0x04, .write 0x05 0x00, .read 0x0A 0x00, .write 0x0A 0x80, .write 0x09 0x30, .write 0x09 0x04,
      .write 0x01 0x03, .read 0x05 0x04, .read 0x22 0x26, .read 0x21 0xEE, .write 0x02 0xF7, .read 0x04 0x10,
      .write 0x04 0x10, .read 0x0A 0x02, .write 0x0A 0x82, .write 0x01 0x00, .write 0x09 0x30, .write 0x09 0x04,
      .write 0x09 0x26, .write 0x09 0xEE, .write 0x01 0x0C, .read 0x0D 0x00, .write 0x0D 0x80, .read 0x04 0x30,
      .read 0x0D 0x80, .write 0x0D 0x00, .read 0x06 0x00, .read 0x0A 0x12, .read 0x0C 0x00, .read 0x09 0x00,
      .read 0x09 0x01, .read 0x09 0x02, .read 0x09 0x03, .read 0x09 0x04, .read 0x09 0x05, .read 0x09 0x06,
      .read 0x09 0x07, .read 0x09 0x08, .read 0x09 0x09, .read 0x09 0x0A, .read 0x09 0x0B, .read 0x09 0x0C,
      .read 0x09 0x0D, .read 0x09 0x0E, .read 0x09 0x0F] ∧
    t.results = [.block [0x00, 0x01, 0x02, 0x03, 0x04, 0x05, 0x06, 0x07, 0x08, 0x09, 0x0A, 0x0B, 0x0C, 0x0D, 0x0E, 0x0F]] ∧ t.hostDuty = false := by decide +kernel

/-- L2-5: 15 bytes are no block, and READ without authentication is marked. -/
theorem test_read_fifteen_bytes :
    let t := run (idleReady [0x0E, 0x04]
      [0x04, 0x00, 0x04, 0x26, 0xEE, 0x10, 0x02, 0x00, 0x30, 0x80, 0x00, 0x0F, 0x00, 0x00, 0x01, 0x02, 0x03, 0x04, 0x05, 0x06, 0x07, 0x08, 0x09, 0x0A, 0x0B, 0x0C, 0x0D, 0x0E])
    t.bus.trace =
      [.read 0x05 0x04, .write 0x05 0x00, .read 0x0A 0x00, .write 0x0A 0x80, .write 0x09 0x30, .write 0x09 0x04,
      .write 0x01 0x03, .read 0x05 0x04, .read 0x22 0x26, .read 0x21 0xEE, .write 0x02 0xF7, .read 0x04 0x10,
      .write 0x04 0x10, .read 0x0A 0x02, .write 0x0A 0x82, .write 0x01 0x00, .write 0x09 0x30, .write 0x09 0x04,
      .write 0x09 0x26, .write 0x09 0xEE, .write 0x01 0x0C, .read 0x0D 0x00, .write 0x0D 0x80, .read 0x04 0x30,
      .read 0x0D 0x80, .write 0x0D 0x00, .read 0x06 0x00, .read 0x0A 0x0F, .read 0x0C 0x00, .read 0x09 0x00,
      .read 0x09 0x01, .read 0x09 0x02, .read 0x09 0x03, .read 0x09 0x04, .read 0x09 0x05, .read 0x09 0x06,
      .read 0x09 0x07, .read 0x09 0x08, .read 0x09 0x09, .read 0x09 0x0A, .read 0x09 0x0B, .read 0x09 0x0C,
      .read 0x09 0x0D, .read 0x09 0x0E] ∧
    t.results = [.readError 0x04] ∧ t.hostDuty = true := by decide +kernel

/-- L3 P3 operation 5: the nibble 0x05, so no second phase, 30 transactions. -/
theorem test_write_refused :
    let t := run (sessionReady [0x0F, 0x04, 0xAA, 0xAA, 0xAA, 0xAA, 0xAA, 0xAA, 0xAA, 0xAA, 0xAA, 0xAA, 0xAA, 0xAA, 0xAA, 0xAA, 0xAA, 0xAA]
      [0x04, 0x00, 0x04, 0x7B, 0xF7, 0x10, 0x02, 0x00, 0x30, 0x80, 0x00, 0x01, 0x04, 0x05])
    t.bus.trace =
      [.read 0x05 0x04, .write 0x05 0x00, .read 0x0A 0x00, .write 0x0A 0x80, .write 0x09 0xA0, .write 0x09 0x04,
      .write 0x01 0x03, .read 0x05 0x04, .read 0x22 0x7B, .read 0x21 0xF7, .write 0x02 0xF7, .read 0x04 0x10,
      .write 0x04 0x10, .read 0x0A 0x02, .write 0x0A 0x82, .write 0x01 0x00, .write 0x09 0xA0, .write 0x09 0x04,
      .write 0x09 0x7B, .write 0x09 0xF7, .write 0x01 0x0C, .read 0x0D 0x00, .write 0x0D 0x80, .read 0x04 0x30,
      .read 0x0D 0x80, .write 0x0D 0x00, .read 0x06 0x00, .read 0x0A 0x01, .read 0x0C 0x04, .read 0x09 0x05] ∧
    t.results = [.writeError 0x04 .one] := by decide +kernel

/-- L3 P3 operation 6, 88 transactions. -/
theorem test_write :
    let t := run (sessionReady [0x0F, 0x04, 0xAA, 0xAA, 0xAA, 0xAA, 0xAA, 0xAA, 0xAA, 0xAA, 0xAA, 0xAA, 0xAA, 0xAA, 0xAA, 0xAA, 0xAA, 0xAA]
      [0x04, 0x00, 0x04, 0x7B, 0xF7, 0x30, 0x02, 0x00, 0x30, 0x80, 0x00, 0x01, 0x04, 0x0A, 0x04, 0x00, 0x04, 0x37, 0xB5, 0x30, 0x10, 0x00, 0x30, 0x80, 0x00, 0x01, 0x04, 0x0A])
    t.bus.trace =
      [.read 0x05 0x04, .write 0x05 0x00, .read 0x0A 0x00, .write 0x0A 0x80, .write 0x09 0xA0, .write 0x09 0x04,
      .write 0x01 0x03, .read 0x05 0x04, .read 0x22 0x7B, .read 0x21 0xF7, .write 0x02 0xF7, .read 0x04 0x30,
      .write 0x04 0x30, .read 0x0A 0x02, .write 0x0A 0x82, .write 0x01 0x00, .write 0x09 0xA0, .write 0x09 0x04,
      .write 0x09 0x7B, .write 0x09 0xF7, .write 0x01 0x0C, .read 0x0D 0x00, .write 0x0D 0x80, .read 0x04 0x30,
      .read 0x0D 0x80, .write 0x0D 0x00, .read 0x06 0x00, .read 0x0A 0x01, .read 0x0C 0x04, .read 0x09 0x0A,
      .read 0x05 0x04, .write 0x05 0x00, .read 0x0A 0x00, .write 0x0A 0x80, .write 0x09 0xAA, .write 0x09 0xAA,
      .write 0x09 0xAA, .write 0x09 0xAA, .write 0x09 0xAA, .write 0x09 0xAA, .write 0x09 0xAA, .write 0x09 0xAA,
      .write 0x09 0xAA, .write 0x09 0xAA, .write 0x09 0xAA, .write 0x09 0xAA, .write 0x09 0xAA, .write 0x09 0xAA,
      .write 0x09 0xAA, .write 0x09 0xAA, .write 0x01 0x03, .read 0x05 0x04, .read 0x22 0x37, .read 0x21 0xB5,
      .write 0x02 0xF7, .read 0x04 0x30, .write 0x04 0x30, .read 0x0A 0x10, .write 0x0A 0x90, .write 0x01 0x00,
      .write 0x09 0xAA, .write 0x09 0xAA, .write 0x09 0xAA, .write 0x09 0xAA, .write 0x09 0xAA, .write 0x09 0xAA,
      .write 0x09 0xAA, .write 0x09 0xAA, .write 0x09 0xAA, .write 0x09 0xAA, .write 0x09 0xAA, .write 0x09 0xAA,
      .write 0x09 0xAA, .write 0x09 0xAA, .write 0x09 0xAA, .write 0x09 0xAA, .write 0x09 0x37, .write 0x09 0xB5,
      .write 0x01 0x0C, .read 0x0D 0x00, .write 0x0D 0x80, .read 0x04 0x30, .read 0x0D 0x80, .write 0x0D 0x00,
      .read 0x06 0x00, .read 0x0A 0x01, .read 0x0C 0x04, .read 0x09 0x0A] ∧
    t.results = [.unit] ∧ t.bus.trace.length = 88 := by decide +kernel

/-- L3 P2 operation 7: no answer, `NoTag`. -/
theorem test_halt :
    let t := run (sessionReady [0x10]
      [0x04, 0x02, 0x04, 0x57, 0xCD, 0x30, 0x02, 0x00, 0x01, 0x80, 0x00])
    t.bus.trace =
      [.read 0x05 0x04, .write 0x05 0x00, .read 0x0A 0x02, .write 0x0A 0x82, .write 0x09 0x50, .write 0x09 0x00,
      .write 0x01 0x03, .read 0x05 0x04, .read 0x22 0x57, .read 0x21 0xCD, .write 0x02 0xF7, .read 0x04 0x30,
      .write 0x04 0x30, .read 0x0A 0x02, .write 0x0A 0x82, .write 0x01 0x00, .write 0x09 0x50, .write 0x09 0x00,
      .write 0x09 0x57, .write 0x09 0xCD, .write 0x01 0x0C, .read 0x0D 0x00, .write 0x0D 0x80, .read 0x04 0x01,
      .read 0x0D 0x80, .write 0x0D 0x00, .read 0x06 0x00] ∧
    t.results = [.haltStatus .noTag] ∧ t.phase = .halted ∧ t.authenticated = true := by decide +kernel

/-- L3 P1 operation 2, 42 transactions; one operation is counted. -/
theorem test_readuid :
    let t := run (idleReady [0x11]
      [0x00, 0x00, 0x07, 0x30, 0x87, 0x00, 0x02, 0x00, 0x44, 0x00, 0x30, 0x00, 0x00, 0x30, 0x80, 0x00, 0x05, 0x00, 0x12, 0x34, 0x56, 0x78, 0x08])
    t.bus.trace =
      [.write 0x0D 0x07, .write 0x02 0xF7, .read 0x04 0x00, .write 0x04 0x00, .read 0x0A 0x00, .write 0x0A 0x80,
      .write 0x01 0x00, .write 0x09 0x26, .write 0x01 0x0C, .read 0x0D 0x07, .write 0x0D 0x87, .read 0x04 0x30,
      .read 0x0D 0x87, .write 0x0D 0x07, .read 0x06 0x00, .read 0x0A 0x02, .read 0x0C 0x00, .read 0x09 0x44,
      .read 0x09 0x00, .write 0x0D 0x00, .write 0x02 0xF7, .read 0x04 0x30, .write 0x04 0x30, .read 0x0A 0x00,
      .write 0x0A 0x80, .write 0x01 0x00, .write 0x09 0x93, .write 0x09 0x20, .write 0x01 0x0C, .read 0x0D 0x00,
      .write 0x0D 0x80, .read 0x04 0x30, .read 0x0D 0x80, .write 0x0D 0x00, .read 0x06 0x00, .read 0x0A 0x05,
      .read 0x0C 0x00, .read 0x09 0x12, .read 0x09 0x34, .read 0x09 0x56, .read 0x09 0x78, .read 0x09 0x08] ∧
    t.results = [.uid ⟨0x12, 0x34, 0x56, 0x78, 0x08⟩] ∧ t.phase = .collisionResolved ∧ t.opIndex = 1 := by decide +kernel

/-- L3 P4 operation 1: before INIT, no card, 15 transactions and no ANTICOLL. -/
theorem test_readuid_no_card :
    let t := run (fresh [0x11]
      [0x00, 0x00, 0x07, 0x01, 0x87, 0x00])
    t.bus.trace =
      [.write 0x0D 0x07, .write 0x02 0xF7, .read 0x04 0x00, .write 0x04 0x00, .read 0x0A 0x00, .write 0x0A 0x80,
      .write 0x01 0x00, .write 0x09 0x26, .write 0x01 0x0C, .read 0x0D 0x07, .write 0x0D 0x87, .read 0x04 0x01,
      .read 0x0D 0x87, .write 0x0D 0x07, .read 0x06 0x00] ∧
    t.results = [.noCard] ∧ t.hostDuty = true ∧ t.initialised = false := by decide +kernel

/-- L2-7, first row. -/
theorem test_init :
    let t := run (fresh [0x12]
      [0x80, 0x80])
    t.bus.trace =
      [.write 0x01 0x0F, .write 0x2A 0x8D, .write 0x2B 0x3E, .write 0x2D 0x1E, .write 0x2C 0x00, .write 0x15 0x40,
      .write 0x11 0x3D, .read 0x14 0x80, .read 0x14 0x80, .write 0x14 0x83] ∧
    t.results = [.unit] ∧ t.antennaOn = true ∧ t.initialised = true ∧ t.hostDuty = false := by decide +kernel

/-- L2-7: from a session, with the antenna on. -/
theorem test_init_ends_a_session :
    let t := run (sessionReady [0x12]
      [0x83])
    t.bus.trace =
      [.write 0x01 0x0F, .write 0x2A 0x8D, .write 0x2B 0x3E, .write 0x2D 0x1E, .write 0x2C 0x00, .write 0x15 0x40,
      .write 0x11 0x3D, .read 0x14 0x83] ∧
    t.authenticated = false ∧ t.phase = .idle := by decide +kernel

/-- L2-3: 255 polls without the ready bit, then the results are read all the same, and the mark is set (R142). -/
theorem test_crc_exhausted :
    let t := run (idleReady [0x07, 0x02, 0x30, 0x00] ([0x00, 0x00] ++ List.replicate 255 0xFB ++ [0x11, 0x22]))
    t.results = [.crcPair 0x11 0x22] ∧ t.crcTimeout = true := by decide +kernel

/-- L2-3: seen on the 255th read (decision D9). -/
theorem test_poll_last_read_counts :
    let p := Bus.poll .default 0x05 0x04 255 0x00 { Bus.fresh with answers := List.replicate 254 0x00 ++ [0x04] }
    p.seen = true ∧ p.last = 0x04 := by decide +kernel

/-- L2-4: the bit lengths at the clamps. -/
theorem test_bit_lengths :
    bitLengthOf 0 7 = 0 ∧ bitLengthOf 1 7 = 7 ∧ bitLengthOf 3 1 = 17 ∧ bitLengthOf 16 3 = 123 ∧
    bitLengthOf 17 1 = 128 ∧ bitLengthOf 127 0 = 128 ∧ drainCount 35 = 5 ∧ drainCount 4 = 1 ∧ drainCount 0 = 0 := by
  decide +kernel

/-- L2-4: `lvl` and `vb` are masked: "an answer 0x82 gives `lvl = 2`", "an answer 0xF3 gives `vb = 3`". -/
theorem test_level_masks : fifoLevelOf .default 0x82 = 2 ∧ validBitsOf 0xF3 = 3 := by decide +kernel

/-- L2-5: the acknowledgement test. -/
theorem test_ack :
    ack ⟨.ok, [0x0A], 4⟩ = true ∧ ack ⟨.ok, [0xFA], 4⟩ = true ∧ ack ⟨.ok, [0x05], 4⟩ = false ∧
    ack ⟨.ok, [0x0A], 8⟩ = false ∧ ack ⟨.noTag, [0x0A], 4⟩ = false ∧ ack ⟨.err, [], 0⟩ = false := by decide +kernel

/-- L2-3: values of CRC_A. -/
theorem test_crcA :
    crcA [] = 0x6363#16 ∧ crcA [0x00, 0x00] = 0x1EA0#16 ∧ crcA [0x12, 0x34] = 0xCF26#16 ∧
    crcA [0x26] = 0x15CA#16 ∧ crcA [0x50, 0x00] = 0xCD57#16 ∧ crcA (List.replicate 16 0xAA) = 0xB537#16 := by
  decide +kernel

/-- L2-6: an unknown selector is refused, and the byte after it is the next operation (L3 P4). -/
theorem test_illegal_selector :
    let t := run (idleReady [0x13, 0x10] [])
    t.bus.trace = [] ∧ t.refused = true ∧ t.opIndex = 1 ∧ t.results = [.refused .illegalOperation] ∧
    t.pending = [.bytes .host [0x10]] := by decide +kernel

/-- L2-6: `08 41 ...`, 65 bytes. -/
theorem test_frame_too_long :
    let t := run (idleReady (0x08 :: 0x41 :: List.replicate 65 0) [])
    t.bus.trace = [] ∧ t.refused = true ∧ t.results = [.refused .frameTooLong] := by decide +kernel

/-- L2-6: abstract forms with a wrong length. -/
theorem test_bad_arguments :
    (run (State.reset.presentTerms [.select [0x12, 0x34, 0x56, 0x78]])).results = [.refused .badArgument] ∧
    (run (State.reset.presentTerms [.auth 0x60 4 (List.replicate 5 0xFF) [1, 2, 3, 4]])).results =
      [.refused .badArgument] ∧
    (run (State.reset.presentTerms [.write 4 (List.replicate 15 0xAA)])).results = [.refused .badArgument] ∧
    (run (State.reset.presentTerms [.write 4 (List.replicate 15 0xAA)])).hostDuty = false := by decide +kernel

/-! ### Assembler (R90) -/

/-- Lines of L3 P2 and P4. -/
theorem test_assembler_lines :
    parseLine .default
        "AUTH       AUTH1A, 4, [0xFF, 0xFF, 0xFF, 0xFF, 0xFF, 0xFF], [0x12, 0x34, 0x56, 0x78, 0x08]".toList =
      .operation (.auth 0x60 4 (List.replicate 6 0xFF) [0x12, 0x34, 0x56, 0x78, 0x08]) ∧
    parseLine .default "READUID                 ; no card".toList = .operation .readuid ∧
    parseLine .default "                        ; the byte 0x13: no assembler line spells it".toList = .blank ∧
    parseLine .default "SETBITS BitFraming, 128".toList = .operation (.setbits 0x0D 0x80) ∧
    parseLine .default "WREG Command, 256".toList = .illFormed := by decide +kernel

/-- L3 P1: the text's operations, and their binary form `12 11 06`. -/
theorem test_assembler_program :
    assemble .default ["INIT".toList, "READUID".toList, "ANTOFF".toList] = some [.init, .readuid, .antoff] ∧
    [Instr.init, .readuid, .antoff].flatMap (encode .default) = [0x12, 0x11, 0x06] := by decide +kernel

/-! ### Witnesses: the hypotheses of each statement, met by a concrete case, each clause at a boundary value -/

theorem witness_DecodeOfEncode :
    (Instr.crc (List.replicate 255 0)).wellFormed = true ∧ (Instr.transceive []).wellFormed = true ∧
    (Instr.select [1, 2, 3, 4, 5]).wellFormed = true ∧
    (Instr.auth 0x61 255 [1, 2, 3, 4, 5, 6] [1, 2, 3, 4]).wellFormed = true ∧
    (Instr.write 255 (List.replicate 16 0xFF)).wellFormed = true ∧ (Instr.busR 63).wellFormed = true ∧
    Params.default.legal = true := by decide +kernel

theorem witness_DecodedBytesAreTheEncoding :
    decode .default .host [0x10, 0x10] = .ok (.halt, [0x10]) ∧ decode .default .bus [0xFE, 0x00] = .ok (.busR 0x3F, []) ∧
    decode .default .chipCommand [0x0F] = .ok (.pcdSoftReset, []) ∧
    decode .default .cardFrame [0x93, 0x20, 0x93] = .ok (.piccAnticoll, [0x93]) := ⟨rfl, rfl, rfl, rfl⟩

/-- Another value of a parameter is what the engine uses (R8): `DUMMY_TX` 0xFF on the bus lines, `MAX_FRAME` 0, and
another address for `TxControl`. -/
theorem test_parameters_are_arguments :
    (run { formReady .bus [0x90, 0xFF] [0x5A] with params := { Params.default with dummyTx := 0xFF } }).bus.wire =
      [.csAssert, .send 0x90, .exchange 0xFF 0x5A, .csRelease] ∧
    (run { idleReady [0x07, 0x01, 0x30] [] with params := { Params.default with maxFrame := 0 } }).results =
      [.refused .frameTooLong] ∧
    (run { idleReady [0x06] [0x83] with
      params := { Params.default with reg := { RegMap.default with txControl := 0x16 } } }).bus.trace =
      [.read 0x16 0x83, .write 0x16 0x80] := by decide +kernel

theorem witness_IllegalHostBytesSpellNothing :
    0x13 ≤ (0x13 : Byte).toNat ∧ 0x13 ≤ (0xFF : Byte).toNat ∧
    (Instr.write 4 (List.replicate 16 0)).port = .host ∧ (Instr.write 4 (List.replicate 16 0)).wellFormed = true ∧
    17 < (encode .default (.write 4 (List.replicate 16 0))).length ∧ 0 < (encode .default .halt).length := by decide +kernel

theorem witness_StepRunsThePresentedInstruction :
    (idleReady [0x10, 0x10] []).pending = .bytes .host [0x10, 0x10] :: [] ∧
    decode .default .host [0x10, 0x10] = .ok (.halt, [0x10]) ∧
    (State.reset.presentTerms [.halt]).pending = .term .halt :: [] ∧ State.reset.pending = [] :=
  ⟨rfl, rfl, rfl, rfl⟩

theorem witness_StepRefusesIllegalHostBytes :
    (fresh [0x13, 0x10] []).pending = .bytes .host [0x13, 0x10] :: [] ∧
    decode .default .host [0x13, 0x10] = .error (.unknownSelector 0x13) ∧
    decode .default .host [0x00] = .error (.unknownSelector 0x00) ∧ decode .default .host [0x01, 0x05] = .error .truncated :=
  ⟨rfl, rfl, rfl, rfl⟩

theorem witness_ReservedBytesStopTheStep :
    ((formReady .cardFrame [0x93, 0x21] []).pending = .bytes .cardFrame [0x93, 0x21] :: [] ∧
      decode .default .cardFrame [0x93, 0x21] = .error (.unknownFrame 0x21)) ∧
    ((0x01 : Byte) ∉ Params.default.cmd.codes ∧ (0xFF : Byte) ∉ Params.default.cmd.codes) ∧
    (0xFF : Byte).getLsbD 0 = true ∧
    ((0x80 : Byte).getLsbD 0 = false ∧ (0x80 : Byte).getLsbD 7 = true ∧ (0x01 : Byte) ≠ Params.default.dummyTx) ∧
    ((0xFF : Byte) ∉ Params.default.picc.oneByte ∧ (0xFF : Byte) ∉ Params.default.picc.twoByte.map Prod.fst) ∧
    ((0x93 : Byte) ∉ Params.default.picc.oneByte ∧ (0x93 : Byte) ∈ Params.default.picc.twoByte.map Prod.fst ∧
      ((0x93 : Byte), (0x21 : Byte)) ∉ Params.default.picc.twoByte) ∧
    (Instr.port (.piccHalt 0 0) ≠ .host ∧ (Instr.piccHalt 0 0).wellFormed = true ∧ Params.default.legal = true ∧
      3 < (encode .default (.piccHalt 0 0)).length ∧ 0 < (encode .default .pcdIdle).length) := by
  refine ⟨⟨rfl, rfl⟩, ?_⟩
  decide +kernel

theorem witness_CrcDrivesTheCoprocessor :
    (List.replicate 64 (0 : Byte)).length ≤ State.reset.params.maxFrame ∧
    ([] : List Byte).length ≤ State.reset.params.maxFrame := by decide +kernel

/-- An exhausted exchange is a long one, and it wrote its command to `Command`. -/
theorem exhausted_facts {P : Params} {ts : List Transaction} (h : ExhaustedExchange P ts) :
    2000 ≤ ts.length ∧ ∃ v, Transaction.write P.reg.command v ∈ ts := by
  obtain ⟨cmd, d, polls, us, r, ⟨v0, v1, v3, start, tail, seen, -, -, hp, -, rfl⟩, hz, hi⟩ := h
  have hn : polls.length = 2000 := by
    cases seen with
    | false => exact (hp.2 rfl).1
    | true =>
      obtain ⟨before, last, rfl, -, -, hl⟩ := hp.1 rfl
      exact absurd (hz last (by simp)) hl
  refine ⟨?_, P.cmd.idle, hi.subset (by simp)⟩
  have := hi.length_le
  simp at this
  omega

/-- The laws may be held after a trace shorter than an exhausted poll, of an operation that needs no session or has one. -/
theorem lawsApply_of_short {P : Params} {o : Occasion} (hl : o.before.length < 2000)
    (hc : ∀ v, Transaction.write P.reg.command v ∈ o.before → v ∈ P.cmd.codes)
    (hs : (∃ blk d, o.op = .read blk ∨ o.op = .write blk d) → o.authenticated = true) : LawsApply P o :=
  ⟨hc, fun h => absurd (exhausted_facts h).1 (by omega), hs⟩

/-- INIT's transactions on a chip whose antenna bits are set (43_protocol.md R225's example, with one read). -/
def initTrace : List Transaction :=
  [.write 0x01 0x0F, .write 0x2A 0x8D, .write 0x2B 0x3E, .write 0x2D 0x1E, .write 0x2C 0x00, .write 0x15 0x40,
    .write 0x11 0x3D, .read 0x14 0x83]

theorem initRun_initTrace : InitRun .default initTrace := ⟨[.read 0x14 0x83], ⟨0x83, .inl ⟨by decide, rfl⟩⟩, rfl⟩

/-- Only INIT changed `Mode`, whatever else followed that leaves it. -/
theorem modeOnlyByInit_initTrace (more : List Transaction) (h : ModeUnchanged .default more) :
    ModeOnlyByInit .default (initTrace ++ more) :=
  RegsOnlyByInit.append (initRun_initTrace.regsOnlyByInit _) h

/-- An engine that INIT has initialised, and what it has done on the bus since. -/
def afterInit (more : List Transaction) : State :=
  { idleReady [] [] with bus := { Bus.fresh with trace := initTrace ++ more } }

/-- The laws may be held after INIT, and after an INIT and a `CalcCRC` command, of an operation that needs no session. -/
theorem lawsApply_afterInit {i : Instr} (hs : ¬∃ blk d, i = .read blk ∨ i = .write blk d) :
    LawsApply .default ((afterInit []).occasion i) ∧ LawsApply .default ((afterInit [.write 0x01 0x03]).occasion i) :=
  ⟨lawsApply_of_short (show initTrace.length < 2000 by decide)
      (by simp [State.occasion, afterInit, initTrace]; decide) fun h => absurd h hs,
    lawsApply_of_short (show (initTrace ++ [Transaction.write 0x01 0x03]).length < 2000 by decide)
      (by simp [State.occasion, afterInit, initTrace]; decide) fun h => absurd h hs⟩

/-- Every premise about the two states and the traces, and both laws of READ block 4's CRC (L1-3), INIT's `Mode`
holding. -/
theorem witness_CrcUnderItsChipLawsReturnsTheSamePair :
    let o := (afterInit []).occasion (.crc [0x30, 0x04])
    let o' := (afterInit [.write 0x01 0x03]).occasion (.crc [0x30, 0x04])
    [(0x30 : Byte), 0x04].length ≤ (afterInit []).params.maxFrame ∧ LawsApply .default o ∧ LawsApply .default o' ∧
    (0x3D : Byte) &&& 0x03 = 0x01 ∧ ModeOnlyByInit .default o.before ∧ ModeOnlyByInit .default o'.before ∧
    CrcALaw .default 0x3D o [0x30, 0x04] 0x26 0xEE true ∧ CrcALaw .default 0x3D o' [0x30, 0x04] 0x26 0xEE true ∧
    o'.before = o.before ++ [.write 0x01 0x03] ∧ ModeUnchanged .default [.write 0x01 0x03] ∧
    CrcDet .default o o' [0x30, 0x04] [0x30, 0x04] (0x26, 0xEE) (0x26, 0xEE) true true :=
  have hu : ModeUnchanged .default [.write 0x01 0x03] := by
    simp only [ModeUnchanged, RegsUnchanged, List.mem_singleton, forall_eq, Transaction.changes]; decide
  have hl := lawsApply_afterInit (i := .crc [0x30, 0x04]) (by simp)
  ⟨by decide, hl.1, hl.2, by decide, modeOnlyByInit_initTrace [] (by simp [ModeUnchanged, RegsUnchanged]),
    modeOnlyByInit_initTrace _ hu, fun _ _ _ _ => by decide +kernel, fun _ _ _ _ => by decide +kernel, rfl, hu,
    fun _ _ _ _ _ _ => rfl⟩

/-- What the laws do not reach: a `Mode` write or a soft reset between two CRCs, an INIT's among them (R285, I-1, I-8),
after a reserved command code any answer (I-9), and READ without authentication (I-13). -/
theorem test_laws_are_silent :
    ¬ModeUnchanged .default [.write 0x11 0x3D] ∧ ¬ModeUnchanged .default [.write 0x01 0x0F] ∧
    ¬ModeUnchanged .default initTrace ∧
    (∀ i a, ¬LawsApply .default { before := [.write 0x01 0x1F], op := i, authenticated := a }) ∧
    ∀ ts, ¬LawsApply .default { before := ts, op := .read 4, authenticated := false } :=
  ⟨fun h => h _ (List.mem_singleton.2 rfl) (.inl (List.mem_singleton.2 rfl)),
    fun h => h _ (List.mem_singleton.2 rfl) (.inr ⟨rfl, rfl⟩),
    fun h => h (.write 0x01 0x0F) (by decide) (.inr ⟨rfl, rfl⟩),
    fun _ _ h => absurd (h.commands 0x1F (List.mem_singleton.2 rfl)) (by decide), fun _ h => by simpa using h.session ⟨4, [], .inl rfl⟩⟩

/-- 2000 raw reads of `ComIrq` are no exhausted exchange (I-20), however the chip answers. -/
theorem test_raw_reads_end_no_law (polls : List Byte) :
    ¬ExhaustedExchange .default (polls.map (.read 0x04)) := fun h => by
  obtain ⟨v, hv⟩ := (exhausted_facts h).2
  simp at hv

/-- A `Transceive` poll that ends with `RxIRq` alone on its 2000th read is observed (R143), though no answer has a bit of
`MFAuthent`'s exit mask. -/
theorem test_observed_by_rxIrq_alone :
    PollRun 2000 (exitBits .default .transceive) (List.replicate 1999 0x00 ++ [0x20]) true ∧
    (0x20 : Byte) &&& exitBits .default .mfAuthent = 0 :=
  ⟨⟨fun _ => ⟨List.replicate 1999 0x00, 0x20, rfl, by rw [List.length_replicate]; decide,
    fun v hv => by rw [List.eq_of_mem_replicate hv]; decide, by decide⟩, fun h => Bool.noConfusion h⟩, by decide⟩

/-- A trace with a raw write of 0x81 to `Mode`, bits 1:0 of which are 01 too, is not one that only INIT changed `Mode`
in, wherever INIT stands (R146). -/
theorem test_raw_mode_write_ends_the_law {before : List Transaction} (h : .write 0x11 0x81 ∈ before) :
    ¬ModeOnlyByInit .default before := by
  rintro ⟨runs, rfl, hall, -⟩
  obtain ⟨ts, hts, hmem⟩ := List.mem_flatten.1 h
  rcases hall ts hts with ⟨ant, ⟨v, ⟨-, rfl⟩ | ⟨-, w, rfl⟩⟩, rfl⟩ | hu
  · revert hmem; simp [Params.default, RegMap.initSequence, RegMap.default]
  · revert hmem; simp [Params.default, RegMap.initSequence, RegMap.default, setRun]
  · exact hu _ hmem (.inl (List.mem_singleton.2 rfl))

/-- `INIT_SEQUENCE` leaves `CRCPreset` at 01 (R146, R225), if it took effect (R285). -/
theorem test_init_mode : InitTookEffect .default 0x3D ∧ (0x3D : Byte) &&& 0x03 = 0x01 :=
  ⟨rfl, by decide⟩

theorem witness_TransceiveRunsTheExchange :
    (List.replicate 64 (0x26 : Byte)).length ≤ State.reset.params.maxFrame := by decide +kernel

/-- L2-4: an `MFAuthent` exchange with a collision error, and one that ends well. -/
theorem witness_ExchangeResultInvariants :
    (Bus.pcdExchange .default .mfAuthent [0x60]
      { Bus.fresh with answers := [0x00, 0x00, 0x10, 0x00, 0x08] }).1.status = .err ∧
    (Bus.pcdExchange .default .mfAuthent [0x60]
      { Bus.fresh with answers := [0x00, 0x00, 0x10, 0x00, 0x00] }).1.status = .ok := by decide +kernel

theorem witness_BitLengthFormula : (127 : Nat) ≤ 127 ∧ (7 : Nat) ≤ 7 ∧ (0 : Nat) ≤ 127 ∧ (0 : Nat) ≤ 7 := by decide

/-- A trace that never wrote `BitFraming` left no framing behind. -/
theorem not_framingLeft {P : Params} {ts : List Transaction}
    (h : ∀ v, Transaction.write P.reg.bitFraming v ∉ ts) : ¬FramingLeft P ts := by
  rintro ⟨mode, r, pre, req, post, ⟨xch, -, rfl⟩, rfl, -⟩
  exact h 0x07 (by simp)

/-- The laws of an exchange may be held after INIT, of an operation that needs no session. -/
theorem xcvLawsApply_afterInit {i : Instr} (hs : ¬∃ blk d, i = .read blk ∨ i = .write blk d) :
    XcvLawsApply .default ((afterInit []).occasion i) :=
  ⟨(lawsApply_afterInit hs).1, not_framingLeft fun v => by
    simp [State.occasion, afterInit, initTrace, Params.default, RegMap.default]⟩

/-- The CRC of READ block 4 (L1-3), its flag seen at once. -/
def crcTrace : List Transaction :=
  [.read 0x05 0x04, .write 0x05 0x00, .read 0x0A 0x02, .write 0x0A 0x82, .write 0x09 0x30, .write 0x09 0x04,
    .write 0x01 0x03, .read 0x05 0x04, .read 0x22 0x26, .read 0x21 0xEE]

/-- The exchange of READ block 4 in a session, its CRC computed (L1-3). -/
def readOccasion : Occasion :=
  ({ afterInit [] with authenticated := true }.occasion (.read 4)).after crcTrace

theorem xcvLawsApply_readOccasion : XcvLawsApply .default readOccasion :=
  ⟨lawsApply_of_short (by decide)
      (by
        simp [readOccasion, Occasion.after, State.occasion, afterInit, initTrace, crcTrace, Params.default,
          RegMap.default]
        decide)
      fun _ => rfl,
    not_framingLeft fun v => by
      simp [readOccasion, Occasion.after, State.occasion, afterInit, initTrace, crcTrace, Params.default, RegMap.default]⟩

/-- REQUEST whose poll ends with the timer, `BitFraming` answering what was written (L2-4's form). -/
def requestTrace : List Transaction :=
  .write 0x0D 0x07 :: ([.write 0x02 0xF7] ++ clearRun 0x04 0x80 0x00 ++ setRun 0x0A 0x80 0x00 ++ [.write 0x01 0x00] ++
    [.write 0x09 0x26] ++ [.write 0x01 0x0C] ++ setRun 0x0D 0x80 0x07 ++ [.read 0x04 0x01] ++ clearRun 0x0D 0x80 0x87 ++
    [.read 0x06 0x00])

theorem requestRun_requestTrace :
    RequestRun .default 0x26 requestTrace { status := .noTag, data := [], bitLength := 0 } :=
  ⟨_, ⟨[0x01], 0x00, 0x00, 0x87, setRun 0x0D 0x80 0x07, [.read 0x06 0x00], true, fun _ => ⟨0x07, rfl⟩, by simp,
    ⟨fun _ => ⟨[], 0x01, rfl, by simp, by simp, by decide⟩, by simp⟩, by
      rw [ExchangeEnd, if_neg (by decide)]
      exact ⟨0x00, by rw [if_neg (by decide), if_neg (by decide)]; exact ⟨rfl, rfl⟩⟩, rfl⟩, rfl⟩

/-- REQUEST's 7-bit frame is left behind (R290, I-17): straight after it, and after a CLRBITS of `StartSend` too. -/
theorem test_framing_left :
    FramingLeft .default requestTrace ∧ FramingLeft .default (requestTrace ++ [.read 0x0D 0x07, .write 0x0D 0x07]) := by
  have hreq : ∀ v, Transaction.write Params.default.reg.bitFraming v ∈ requestTrace → v &&& 0x07 = 0x07 := by
    intro v hv
    simp [requestTrace, setRun, clearRun, Params.default, RegMap.default] at hv
    rcases hv with rfl | rfl | rfl <;> decide
  refine ⟨⟨_, _, [], requestTrace, [], requestRun_requestTrace, by simp, hreq, by simp [FramingKept]⟩,
    ⟨_, _, [], requestTrace, _, requestRun_requestTrace, by simp; rfl, hreq, fun a v b h => ?_⟩⟩
  rcases a with _ | ⟨x, _ | ⟨y, a⟩⟩ <;> simp at h
  obtain ⟨rfl, ⟨-, rfl⟩, -⟩ := h
  exact ⟨by decide, 0x07, rfl⟩

/-- It is left no more once `BitFraming` is written anew, as ANTICOLL, WREG and the next REQUEST do. -/
theorem test_framing_written_anew (v : Byte) : ¬FramingKept .default [.write 0x0D v] := fun h => by
  obtain ⟨-, w, hw⟩ := h [] v [] rfl
  simp at hw

/-- Where the laws of an exchange are silent further: data under `NoTag` (I-3), and a card in the field. -/
theorem test_exchange_laws_are_silent (o : Occasion) :
    FifoHonest .default o .noTag [0x44, 0x00] 0 0x01 0x00 [0xFF] ∧
    NoCardTimer .default { cardInField := true, timerTookEffect := true } .transceive o [0x30] :=
  ⟨fun _ h => by simp at h, fun _ h => by simp at h⟩

/-- Both chip laws, on exchanges with no error bit after INIT: L2-4, polls ending with 0x30 and with 0x01. -/
theorem witness_TransceiveUnderChipLaws :
    let o := (afterInit []).occasion (.transceive [0x26])
    [(0x26 : Byte)].length ≤ State.reset.params.maxFrame ∧
    (∀ e, Transaction.read 0x06 e ∈ (run (idleReady [0x08, 0x01, 0x26]
      [0x00, 0x00, 0x00, 0x01, 0x80, 0x00])).bus.trace → e &&& 0x1B = 0) ∧
    XcvLawsApply .default o ∧ TimerOnlyByInit .default o.before ∧ XcvEnds .default o [0x40, 0x30] ∧
    NoCardTimer .default { cardInField := false, timerTookEffect := true } .transceive o [0x40, 0x01] :=
  ⟨by decide, by decide +kernel, xcvLawsApply_afterInit (by simp), ⟨by decide, initRun_initTrace.regsOnlyByInit _⟩,
    fun _ => ⟨0x30, by decide, by decide⟩, fun _ _ _ _ => ⟨0x01, rfl, by decide, by decide, by decide⟩⟩

/-- AUTH with no card after INIT, its poll ending with the timer. -/
theorem witness_AuthUnderNoCardTimer :
    let i := Instr.auth 0x60 4 [1, 2, 3, 4, 5, 6] [1, 2, 3, 4]
    [(1 : Byte), 2, 3, 4, 5, 6].length = 6 ∧ 4 ≤ [(1 : Byte), 2, 3, 4].length ∧
    XcvLawsApply .default ((afterInit []).occasion i) ∧ TimerOnlyByInit .default (afterInit []).bus.trace ∧
    NoCardTimer .default { cardInField := false, timerTookEffect := true } .mfAuthent ((afterInit []).occasion i)
      [0x00, 0x01] :=
  ⟨rfl, by decide, xcvLawsApply_afterInit (by simp), ⟨by decide, initRun_initTrace.regsOnlyByInit _⟩,
    fun _ _ _ _ => ⟨0x01, rfl, by decide, by decide, by decide⟩⟩

theorem witness_RequestSendsAShortFrame :
    (⟨.ok, [0x44, 0x00], 16⟩ : TransceiveResult).status = .ok ∧
    (⟨.ok, [0x44, 0x00], 16⟩ : TransceiveResult).bitLength = 16 := ⟨rfl, rfl⟩

theorem witness_AuthConfirmsTheCryptoBit :
    [(1 : Byte), 2, 3, 4, 5, 6].length = 6 ∧ 4 ≤ [(1 : Byte), 2, 3, 4].length ∧ 4 ≤ [(1 : Byte), 2, 3, 4, 5].length := by
  decide

theorem witness_WriteIsTwoAcknowledgedPhases : (List.replicate 16 (0xAA : Byte)).length = 16 := by decide

theorem witness_ChecksumCatchesEverySingleBitError :
    (0 : Nat) < 8 ∧ (7 : Nat) < 8 ∧
    anticollUid ⟨.ok, [0x12, 0x34, 0x56, 0x78, 0x08], 35⟩ = some ⟨0x12, 0x34, 0x56, 0x78, 0x08⟩ := by decide +kernel

/-- HALT after INIT, its CRC `57 CD` (L2-3). -/
theorem witness_HaltFrameUnderCrcALaw :
    [(0x50 : Byte), 0x00] = [State.reset.params.picc.halt.1, State.reset.params.picc.halt.2] ∧
    CrcALaw .default 0x3D ((afterInit []).occasion .halt) [0x50, 0x00] 0x57 0xCD true ∧
    LawsApply .default ((afterInit []).occasion .halt) ∧ (0x3D : Byte) &&& 0x03 = 0x01 ∧
    ModeOnlyByInit .default (afterInit []).bus.trace :=
  ⟨rfl, fun _ _ _ _ => by decide +kernel, (lawsApply_afterInit (by simp)).1, by decide,
    modeOnlyByInit_initTrace [] (by simp [ModeUnchanged, RegsUnchanged])⟩

/-- Neighbours in a list stand in the list zipped with its tail. -/
theorem mem_zip_tail_of_infix {α : Type} {a b : α} : ∀ {l : List α}, [a, b] <:+: l → (a, b) ∈ l.zip l.tail
  | [], h => by simp at h
  | x :: l, ⟨p, q, h⟩ => by
    cases p with
    | nil =>
      simp only [List.nil_append, List.cons_append, List.cons.injEq] at h
      obtain ⟨rfl, rfl⟩ := h
      simp
    | cons y p =>
      simp only [List.cons_append, List.cons.injEq] at h
      have ih := mem_zip_tail_of_infix (l := l) ⟨p, q, h.2⟩
      cases l with
      | nil => simp at ih
      | cons z l => exact List.mem_cons_of_mem _ ih

/-- READ of a block whose card answered 18 bytes (L3 P2 operation 5, its last 22 transactions but for the framing). -/
theorem witness_ReadUnderFifoHonest :
    State.reset.params.mask.xcvExit &&& ~~~(State.reset.params.mask.rxInd ||| State.reset.params.mask.timerIrq) = 0 ∧
    16 ≤ [(0x00 : Byte), 1, 2, 3, 4, 5, 6, 7, 8, 9, 10, 11, 12, 13, 14, 15, 0x77, 0xF5].length ∧
    XcvLawsApply .default readOccasion ∧
    ∀ l c, [Transaction.read 0x0A l, .read 0x0C c] <:+:
        ([.read 0x0A 0x02, .write 0x0A 0x82, .read 0x04 0x30, .read 0x06 0x00, .read 0x0A 0x12, .read 0x0C 0x00] ++
          [(0x00 : Byte), 1, 2, 3, 4, 5, 6, 7, 8, 9, 10, 11, 12, 13, 14, 15].map (.read 0x09)) →
      FifoHonest .default readOccasion .ok [0x00, 1, 2, 3, 4, 5, 6, 7, 8, 9, 10, 11, 12, 13, 14, 15, 0x77, 0xF5] 0 l c
        [0x00, 1, 2, 3, 4, 5, 6, 7, 8, 9, 10, 11, 12, 13, 14, 15] := by
  refine ⟨by decide, by decide, xcvLawsApply_readOccasion, fun l c h _ _ => ?_⟩
  have hm := mem_zip_tail_of_infix h
  simp at hm
  obtain ⟨rfl, rfl⟩ := hm
  exact ⟨by decide, by decide, by decide⟩

theorem witness_WrongLengthsAreRefused :
    State.reset.params.maxFrame < (List.replicate 65 (0 : Byte)).length ∧ [(1 : Byte), 2, 3, 4].length ≠ 5 ∧
    [(1 : Byte), 2, 3, 4, 5].length ≠ 6 ∧ [(1 : Byte), 2, 3].length < 4 ∧ (List.replicate 15 (0 : Byte)).length ≠ 16 ∧
    (List.replicate 17 (0 : Byte)).length ≠ 16 := by decide +kernel

theorem witness_ChipCommandsAreWrittenToCommand :
    (Instr.pcdIdle, (0x00 : Byte)) ∈ [(Instr.pcdIdle, State.reset.params.cmd.idle),
      (.pcdSoftReset, State.reset.params.cmd.softReset)] := by decide

theorem witness_CardFramesAreLoadedIntoTheFifo :
    Instr.port .piccDecrement = .cardFrame ∧ Instr.port (.piccHalt 0x57 0xCD) = .cardFrame := ⟨rfl, rfl⟩

/-- The hypothesis of every rule of the whole machine: an instruction that ends in a next state. -/
theorem witness_exec_next :
    (∃ t, exec .anton State.reset = .next t) ∧ (∃ t, exec .antoff State.reset = .next t) ∧
    (∃ t, exec .stopcrypto State.reset = .next t) ∧ (∃ t, exec (.read 4) State.reset = .next t) ∧
    (∃ t, exec (.write 4 []) State.reset = .next t) ∧ (∃ t, exec .pcdIdle State.reset = .next t) :=
  ⟨⟨_, rfl⟩, ⟨_, rfl⟩, ⟨_, rfl⟩, ⟨_, rfl⟩, ⟨_, rfl⟩, ⟨_, rfl⟩⟩

theorem witness_AntennaOnIsOnlyARecord : ∃ t, exec (.auth 0x60 4 [] []) (sessionReady [] []) = .next t := ⟨_, rfl⟩

theorem witness_AuthenticatedNeverBlocks : ∃ t, exec (.read 4) (idleReady [] []) = .next t := ⟨_, rfl⟩

theorem witness_SessionIsLeftByEveryOtherOperation :
    Instr.readuid ≠ .anton ∧ Instr.readuid ≠ .antoff ∧ Instr.readuid ≠ .init ∧ Instr.readuid ≠ .stopcrypto ∧
    (∀ mode blk key uid, Instr.readuid ≠ .auth mode blk key uid) ∧
    ∃ t, exec .readuid (sessionReady [] []) = .next t := ⟨by decide, by decide, by decide, by decide, by simp, _, rfl⟩

theorem witness_PhaseFollowsTheTable :
    (Instr.stopcrypto.port = .host ∧ ∃ t, exec .stopcrypto (sessionReady [] []) = .next t) ∧
    ((Instr.busW 1 0).port ≠ .host ∧ ∃ t, exec (.busW 1 0) State.reset = .next t) :=
  ⟨⟨rfl, _, rfl⟩, by decide, _, rfl⟩

theorem witness_HostDutyMarksBrokenPreconditions :
    ((Instr.read 4).port = .host ∧ refusalOf .default (.read 4) = none ∧ dutyBroken (.read 4) (idleReady [] []) = true) ∧
    (refusalOf .default (.write 4 []) ≠ none ∧ Instr.pcdIdle.port ≠ .host) ∧
    ∃ t, exec (.read 4) (idleReady [] []) = .next t := ⟨⟨rfl, rfl, rfl⟩, ⟨by decide, by decide⟩, _, rfl⟩

theorem witness_EveryHostOperationIsCountedOnce :
    (Instr.write 4 []).port = .host ∧ (Instr.busR 4).port ≠ .host ∧
    ∃ t, exec (.write 4 []) State.reset = .next t := ⟨rfl, by decide, _, rfl⟩

theorem witness_StepsNeverClearMarksOrHistory :
    ∃ t, step { sessionReady [0x12] [0x80, 0x80] with crcTimeout := true, hostDuty := true, refused := true } = .next t :=
  ⟨_, rfl⟩

/-- Two states with the same answers to come, of which one is in a session and one is not. -/
theorem witness_SentAndReturnedIgnoreTheSession :
    (idleReady [] [0x30]).bus.answers = (sessionReady [] [0x30]).bus.answers ∧
    (idleReady [] [0x30]).bus.draws = (sessionReady [] [0x30]).bus.draws ∧
    (idleReady [] [0x30]).params = (sessionReady [] [0x30]).params ∧
    idleReady [] [0x30] ≠ sessionReady [] [0x30] ∧ (∃ t, exec (.read 4) (idleReady [] [0x30]) = .next t) ∧
    ∃ t, exec (.read 4) (sessionReady [] [0x30]) = .next t :=
  ⟨rfl, rfl, rfl, by decide, ⟨_, rfl⟩, _, rfl⟩

/-- INIT with the default sequence writes `SoftReset` to `Command`. -/
theorem witness_OnlyListedChipCommandsAreWritten :
    (fresh [] []).params.legal = true ∧
    (∀ p ∈ (fresh [] []).params.initSequence, p.1 ≠ (fresh [] []).params.reg.command) ∧
    (∀ a m, Instr.init ≠ .wreg a m ∧ Instr.init ≠ .setbits a m ∧ Instr.init ≠ .clrbits a m) ∧
    (∀ a v, Instr.init ≠ .busW a v) ∧ Transaction.write 0x01 0x0F ∈ (run (fresh [0x12] [0x83])).bus.trace ∧
    ∃ t, exec .init (fresh [] [0x83]) = .next t := by
  refine ⟨by decide, ?_, by simp, by simp, by decide +kernel, _, rfl⟩
  simp only [fresh, State.reset, Params.default, RegMap.initSequence, RegMap.default]
  simp

/-- AUTH's exchange clears `StartSend` in `BitFraming` (L3 P2 operation 4, with a framing left by REQUEST). -/
theorem witness_OtherExchangesKeepTheFraming :
    (sessionReady [] []).params.legal = true ∧ Transaction.write 0x0D 0x07 ∈ (run (sessionReady
      [0x0C, 0x60, 0x04, 1, 2, 3, 4, 5, 6, 7, 8, 9, 10] [0x30, 0x00, 0x10, 0x87, 0x00, 0x08])).bus.trace := by
  decide +kernel

theorem witness_TransactionCountsAreBounded :
    ∃ t, exec (.wreg 1 0) State.reset = .next t ∧ t.bus.trace = State.reset.bus.trace ++ [.write 1 0] := ⟨_, rfl, rfl⟩

theorem witness_PresentedOperationsRunInOrder :
    State.reset.pending = [] ∧ ∃ t, steps [Instr.wreg 1 0, .antoff].length
      (State.reset.presentTerms [.wreg 1 0, .antoff]) = .next t := ⟨rfl, _, rfl⟩

/-- The invariant holds of a state in a session with one operation refused. -/
theorem witness_StepKeepsTheEngineInvariant :
    EngineInv { sessionReady [0x0D] [0x08] with opIndex := 1, results := [.refused .badArgument], refused := true } ∧
    ∃ t, step { sessionReady [0x0D] [0x08] with
      opIndex := 1, results := [.refused .badArgument], refused := true } = .next t :=
  ⟨⟨rfl, rfl, fun _ => rfl, fun _ _ => .inr rfl, ⟨fun _ => ⟨.badArgument, by decide⟩, fun _ => rfl⟩, by decide +kernel⟩,
    _, rfl⟩

end Sys2Proof.Tests
end

section
/-! SUPPORT. What a fetch and a step do with what is presented, and that no instruction looks at what is presented
after it. -/

namespace Sys2Proof.Machine

/-! ### One step -/

/-- `requeue` of nothing puts nothing back. -/
theorem requeue_eq (p : Port) (bs : List Byte) (rest : List Presented) :
    requeue p bs rest = if bs = [] then rest else .bytes p bs :: rest := by
  simp only [requeue, List.isEmpty_iff]

theorem step_of_nil {s : State} (h : s.pending = []) : step s = .next s := by
  simp only [step, fetch, h]

theorem step_of_term {s : State} {i : Instr} {rest : List Presented} (h : s.pending = .term i :: rest) :
    step s = exec i { s with pending := rest } := by
  simp only [step, fetch, h]

theorem step_of_bytes {s : State} {p : Port} {bs tail : List Byte} {rest : List Presented} {i : Instr}
    (h : s.pending = .bytes p bs :: rest) (hd : decode s.params p bs = .ok (i, tail)) :
    step s = exec i { s with pending := requeue p tail rest } := by
  simp only [step, fetch, h, hd]

/-- Settles O6, by the three cases of `fetch` that run something or find nothing. -/
theorem stepRunsThePresentedInstruction : Obligations.StepRunsThePresentedInstruction := by
  refine ⟨fun s p bs tail rest i h hd => ?_, fun s rest i h => step_of_term h, fun s h => step_of_nil h⟩
  rw [step_of_bytes h hd, requeue_eq]

/-! ### What is presented after an instruction -/

/-- The state with something else presented. -/
def State.withPending (ps : List Presented) (s : State) : State := { s with pending := ps }

@[simp] theorem State.withPending_pending (ps : List Presented) (s : State) : (s.withPending ps).pending = ps := rfl

@[simp] theorem State.withPending_params (ps : List Presented) (s : State) :
    (s.withPending ps).params = s.params := rfl

theorem State.begin_withPending (ps : List Presented) (s : State) :
    (s.withPending ps).begin = s.begin.withPending ps := rfl

theorem State.onBus_withPending (f : Bus → Bus) (ps : List Presented) (s : State) :
    (s.withPending ps).onBus f = (s.onBus f).withPending ps := rfl

theorem State.pcdExchange_withPending (cmd : ExchangeCommand) (d : List Byte) (ps : List Presented) (s : State) :
    (s.withPending ps).pcdExchange cmd d = Prod.map id (State.withPending ps) (s.pcdExchange cmd d) := rfl

/-- `request` neither looks at what is presented nor changes it. -/
theorem State.request_withPending (mode : Byte) (ps : List Presented) (s : State) :
    (s.withPending ps).request mode = Prod.map id (State.withPending ps) (s.request mode) := by
  simp only [State.request, apply_ite (Prod.map id (State.withPending ps))]
  rfl

/-- `anticoll` neither looks at what is presented nor changes it. -/
theorem State.anticoll_withPending (ps : List Presented) (s : State) :
    (s.withPending ps).anticoll = Prod.map id (State.withPending ps) s.anticoll := by
  simp only [State.anticoll, State.onBus_withPending, State.pcdExchange_withPending, State.withPending_params,
    Prod.map_fst, id]
  split <;> rfl

/-- Every instruction answers a next state (60_exceptions.md R251). -/
theorem exec_next (i : Instr) (s : State) : ∃ t, exec i s = .next t := by
  cases i <;> exact ⟨_, rfl⟩

/-- READUID does the same whatever is presented after it: its cases are those of REQUEST's answer and, on success, of
ANTICOLL's. -/
theorem execReaduid_withPending {s t : State} (ps : List Presented) (h : execReaduid s = .next t) :
    execReaduid (s.withPending ps) = .next (t.withPending ps) := by
  cases h
  simp only [execReaduid, State.begin_withPending, State.request_withPending, State.withPending_params, Prod.map_fst,
    Prod.map_snd, id, State.anticoll_withPending]
  cases (s.begin.request s.params.picc.reqidl).1 with
  | none => rfl
  | some atqa =>
    dsimp only
    cases (s.begin.request s.params.picc.reqidl).2.anticoll.1 <;> rfl

/-- An instruction does the same whatever is presented after it, and leaves that presented. -/
theorem exec_withPending {i : Instr} {s t : State} (ps : List Presented) (h : exec i s = .next t) :
    exec i (s.withPending ps) = .next (t.withPending ps) := by
  cases i with
  | crc | transceive | select | auth | write =>
    cases h
    simp only [exec, execCrc, execTransceive, execSelect, execAuth, execWrite, apply_ite (State.withPending ps)]
    rfl
  | request mode =>
    cases h
    simp only [exec, execRequest, State.begin_withPending, State.request_withPending, Prod.map_fst, id]
    cases (s.begin.request mode).1 <;> rfl
  | anticoll =>
    cases h
    simp only [exec, execAnticoll, State.begin_withPending, State.anticoll_withPending, Prod.map_fst, id]
    cases s.begin.anticoll.1 <;> rfl
  | readuid => exact execReaduid_withPending ps h
  | _ => cases h; rfl

/-- Running an instruction leaves presented what was presented. -/
theorem exec_pending {i : Instr} {s t : State} (h : exec i s = .next t) : t.pending = s.pending := by
  have ht : exec i s = .next (t.withPending s.pending) := exec_withPending s.pending h
  rw [h, Host.Outcome.next.injEq] at ht
  rw [ht, State.withPending_pending]

theorem runOperations_cons {i : Instr} {s t : State} (h : exec i s = .next t) (is : List Instr) :
    runOperations (i :: is) s = runOperations is t := by
  simp only [runOperations, h]

/-- Presented instructions run in order, one per step. -/
theorem steps_presentTerms (is : List Instr) {s : State} (h : s.pending = []) :
    steps is.length (s.presentTerms is) = .next (runOperations is s) := by
  induction is generalizing s with
  | nil => simp [steps, runOperations, State.presentTerms]
  | cons i is ih =>
    obtain ⟨t, ht⟩ := exec_next i s
    have hp : t.pending = [] := (exec_pending ht).trans h
    have hstep : step (s.presentTerms (i :: is)) = .next (t.presentTerms is) := by
      have hq : t.presentTerms is = t.withPending (is.map .term) := by
        rw [State.presentTerms, hp, List.nil_append, State.withPending]
      rw [step_of_term (i := i) (rest := is.map .term) (by simp [h]), hq]
      exact exec_withPending (s := s) _ ht
    rw [runOperations_cons ht, ← ih hp, List.length_cons, steps, hstep]

/-- Settles O11, by induction on the list presented: each step runs its first instruction and leaves the others. -/
theorem presentedOperationsRunInOrder : Obligations.PresentedOperationsRunInOrder := by
  refine ⟨fun is s h => steps_presentTerms is h, fun is t h => ?_⟩
  rw [steps_presentTerms is rfl, Host.Outcome.next.injEq] at h
  rw [observe, h]

end Sys2Proof.Machine
end

section
/-! SUPPORT. The forms that are no host operation, said once (30_encoding.md R92, R94); then how many transactions each
procedure and each instruction performs at most. -/

namespace Sys2Proof.Machine

/-! ### The forms that are no host operation -/

/-- A chip command code presented by itself is its one byte written to `Command` (R92). -/
theorem exec_of_chipCommand {i : Instr} (h : i.port = .chipCommand) (s : State) :
    exec i s = .next (s.issueCommand ((encode s.params i).headD 0)) := by
  cases i with
  | pcdIdle | pcdCalcCRC | pcdTransmit | pcdReceive | pcdTransceive | pcdMFAuthent | pcdSoftReset => rfl
  | _ => cases h

/-- A card frame presented by itself is its bytes loaded into the FIFO (R94, R95). -/
theorem exec_of_cardFrame {i : Instr} (h : i.port = .cardFrame) (s : State) :
    exec i s = .next (s.loadFrame (encode s.params i)) := by
  cases i with
  | piccReqidl | piccReqall | piccAnticoll | piccSelect | piccAuth1a | piccAuth1b | piccRead | piccWrite | piccDecrement
  | piccIncrement | piccRestore | piccTransfer | piccHalt => rfl
  | _ => cases h

/-! ### Lengths of runs -/

@[simp] theorem length_clearRun (a : RegAddr) (m v : Byte) : (clearRun a m v).length = 2 := rfl

@[simp] theorem length_setRun (a : RegAddr) (m v : Byte) : (setRun a m v).length = 2 := rfl

/-- A poll makes at most `budget` reads (41_crc_engine.md R143). -/
theorem PollRun.length_le {budget : Nat} {mask : Byte} {polls : List Byte} {seen : Bool}
    (h : PollRun budget mask polls seen) : polls.length ≤ budget := by
  cases seen with
  | true =>
    obtain ⟨before, last, rfl, hlt, -⟩ := h.1 rfl
    rw [List.length_append, List.length_singleton]
    exact hlt
  | false => exact (h.2 rfl).1.le

/-- The most transactions a CRC over `n` bytes performs (R141). -/
def crcBound (n : Nat) : Nat := 7 + n + 255

/-- The most transactions an exchange that sends `n` bytes performs (42_transceiver.md R161). -/
def exchangeBound (n : Nat) : Nat := 1 + 2 + 2 + 1 + n + 1 + 2 + 2000 + 2 + 1 + 2 + 16

theorem CrcRun.length_le {P : Params} {d : List Byte} {ts : List Transaction} {lo hi : Byte} {seen : Bool}
    (h : CrcRun P d ts lo hi seen) : ts.length ≤ crcBound d.length := by
  obtain ⟨v0, v1, polls, hrun, rfl⟩ := h
  have hpolls := hrun.length_le
  simp only [List.length_append, List.length_map, List.length_cons, List.length_nil, length_clearRun, length_setRun,
    crcBound]
  omega

/-- After its poll an exchange reads `Error`, then at most the level, the valid bits and 16 bytes (R167, R168). -/
theorem ExchangeEnd.length_le {P : Params} {cmd : ExchangeCommand} {seen : Bool} {irq : Byte}
    {tail : List Transaction} {r : TransceiveResult} (h : ExchangeEnd P cmd seen irq tail r) :
    tail.length ≤ 1 + 2 + 16 := by
  unfold ExchangeEnd at h
  split at h
  · simp [h.1]
  obtain ⟨e, h⟩ := h
  split at h
  · simp [h.1]
  split at h
  · obtain ⟨l, c, data, rfl, -, -, hbits, hlen, -⟩ := h
    have hle := bitLengthSpec_le (l &&& P.mask.fifoLevel).toNat (c &&& 0x07).toNat
    simp only [List.length_append, List.length_map, List.length_cons, List.length_nil]
    omega
  · simp [h.1]

theorem ExchangeRun.length_le {P : Params} {cmd : ExchangeCommand} {d : List Byte} {ts : List Transaction}
    {r : TransceiveResult} (h : ExchangeRun P cmd d ts r) : ts.length ≤ exchangeBound d.length := by
  obtain ⟨polls, v0, v1, v3, start, tail, seen, hxcv, hauth, hrun, hend, rfl⟩ := h
  have hpolls := hrun.length_le
  have htail := hend.length_le
  have hstart : start.length ≤ 2 := by
    cases cmd with
    | transceive => obtain ⟨v2, rfl⟩ := hxcv rfl; exact le_rfl
    | mfAuthent => simp [hauth rfl]
  simp only [List.length_append, List.length_map, List.length_cons, List.length_nil, length_clearRun, length_setRun,
    exchangeBound]
  omega

theorem AntennaOnRun.length_le {P : Params} {ts : List Transaction} (h : AntennaOnRun P ts) : ts.length ≤ 3 := by
  obtain ⟨v, ⟨-, rfl⟩ | ⟨-, w, rfl⟩⟩ := h <;> simp

/-- A longer CRC may take more transactions. -/
theorem crcBound_mono {m n : Nat} (h : m ≤ n) : crcBound m ≤ crcBound n := by
  unfold crcBound
  omega

/-- A longer exchange may take more transactions. -/
theorem exchangeBound_mono {m n : Nat} (h : m ≤ n) : exchangeBound m ≤ exchangeBound n := by
  unfold exchangeBound
  omega

/-! ### Bounds of the procedures -/

/-- From `b` to `c` at most `n` transactions were performed. -/
def PerformsAtMost (P : Params) (n : Nat) (b c : Bus) : Prop := ∃ ts, Performed P b ts c ∧ ts.length ≤ n

/-- The bound of one procedure after another is the sum. -/
theorem PerformsAtMost.append {P : Params} {m n : Nat} {b c d : Bus} (h : PerformsAtMost P m b c)
    (k : PerformsAtMost P n c d) : PerformsAtMost P (m + n) b d := by
  obtain ⟨ts, hp, hts⟩ := h
  obtain ⟨us, hq, hus⟩ := k
  exact ⟨ts ++ us, hp.append hq, by rw [List.length_append]; exact Nat.add_le_add hts hus⟩

theorem PerformsAtMost.mono {P : Params} {m n : Nat} {b c : Bus} (h : PerformsAtMost P m b c) (hmn : m ≤ n) :
    PerformsAtMost P n b c := by
  obtain ⟨ts, hp, hts⟩ := h
  exact ⟨ts, hp, hts.trans hmn⟩

theorem PerformsAtMost.none (P : Params) (n : Nat) (b : Bus) : PerformsAtMost P n b b :=
  ⟨[], Performed.nil P b, Nat.zero_le n⟩

theorem Bus.write_atMost (P : Params) (a : RegAddr) (v : Byte) (b : Bus) : PerformsAtMost P 1 b (b.write a v) :=
  ⟨_, b.write_performed P a v, le_rfl⟩

theorem Bus.read_atMost (P : Params) (a : RegAddr) (b : Bus) : PerformsAtMost P 1 b (b.read P a).2 :=
  ⟨_, b.read_performed P a, le_rfl⟩

theorem Bus.setBits_atMost (P : Params) (a : RegAddr) (m : Byte) (b : Bus) :
    PerformsAtMost P 2 b (b.setBits P a m) := by
  obtain ⟨v, h⟩ := b.setBits_performed P a m
  exact ⟨_, h, le_rfl⟩

theorem Bus.clearBits_atMost (P : Params) (a : RegAddr) (m : Byte) (b : Bus) :
    PerformsAtMost P 2 b (b.clearBits P a m) := by
  obtain ⟨v, h⟩ := b.clearBits_performed P a m
  exact ⟨_, h, le_rfl⟩

theorem Bus.load_atMost (P : Params) (a : RegAddr) (d : List Byte) (b : Bus) :
    PerformsAtMost P d.length b (b.load a d) :=
  ⟨_, b.load_performed P a d, (List.length_map _).le⟩

theorem Bus.writePairs_atMost (P : Params) (ps : List (RegAddr × Byte)) (b : Bus) :
    PerformsAtMost P ps.length b (b.writePairs ps) :=
  ⟨_, b.writePairs_performed P ps, (List.length_map _).le⟩

theorem Bus.antennaOn_atMost (P : Params) (b : Bus) : PerformsAtMost P 3 b (b.antennaOn P) := by
  obtain ⟨ts, hrun, h⟩ := b.antennaOn_performed P
  exact ⟨ts, h, hrun.length_le⟩

theorem State.calculateCrc_atMost (d : List Byte) (s : State) :
    PerformsAtMost s.params (crcBound d.length) s.bus (s.calculateCrc d).2.bus := by
  obtain ⟨ts, hrun, h⟩ := s.bus.calculateCrc_performed s.params d
  exact ⟨ts, h, hrun.length_le⟩

theorem State.pcdExchange_atMost (cmd : ExchangeCommand) (d : List Byte) (s : State) :
    PerformsAtMost s.params (exchangeBound d.length) s.bus (s.pcdExchange cmd d).2.bus := by
  obtain ⟨ts, hrun, h⟩ := s.bus.pcdExchange_performed s.params cmd d
  exact ⟨ts, h, hrun.length_le⟩

theorem State.exchangeWithCrc_atMost (f : List Byte) (s : State) :
    PerformsAtMost s.params (crcBound f.length + exchangeBound (f.length + 2)) s.bus (s.exchangeWithCrc f).2.bus := by
  have h := (s.calculateCrc_atMost f).append ((s.calculateCrc f).2.pcdExchange_atMost .transceive
    (withCrc f (s.calculateCrc f).1))
  rwa [withCrc, List.length_append] at h

/-- Whatever its verdict, `request` leaves the bus its exchange leaves. -/
theorem State.request_bus (mode : Byte) (s : State) :
    (s.request mode).2.bus =
      ((s.onBus (Bus.write s.params.reg.bitFraming shortFrame)).pcdExchange .transceive [mode]).2.bus := by
  simp only [State.request]
  split <;> rfl

@[simp] theorem State.request_params (mode : Byte) (s : State) : (s.request mode).2.params = s.params := by
  simp only [State.request]
  split <;> rfl

/-- Whatever its verdict, `anticoll` leaves the bus its exchange leaves. -/
theorem State.anticoll_bus (s : State) :
    s.anticoll.2.bus = ((s.onBus (Bus.write s.params.reg.bitFraming s.params.fullFrame)).pcdExchange .transceive
      (anticollFrame s.params)).2.bus := by
  simp only [State.anticoll]
  split <;> rfl

/-- A framing write and an exchange (43_protocol.md R190, R195). -/
theorem State.framedExchange_atMost (v : Byte) (d : List Byte) (s : State) :
    PerformsAtMost s.params (1 + exchangeBound d.length) s.bus
      ((s.onBus (Bus.write s.params.reg.bitFraming v)).pcdExchange .transceive d).2.bus :=
  (Bus.write_atMost s.params s.params.reg.bitFraming v s.bus).append
    (State.pcdExchange_atMost .transceive d (s.onBus (Bus.write s.params.reg.bitFraming v)))

theorem State.request_atMost (mode : Byte) (s : State) :
    PerformsAtMost s.params (1 + exchangeBound 1) s.bus (s.request mode).2.bus := by
  rw [State.request_bus]
  exact s.framedExchange_atMost shortFrame [mode]

theorem State.anticoll_atMost (s : State) :
    PerformsAtMost s.params (1 + exchangeBound 2) s.bus s.anticoll.2.bus := by
  rw [State.anticoll_bus]
  exact s.framedExchange_atMost s.params.fullFrame (anticollFrame s.params)

/-! ### Bounds of the instructions -/

/-- The most transactions an instruction performs. -/
def transactionBound (P : Params) : Instr → Nat
  | .wreg _ _ | .rreg _ | .busW _ _ | .busR _ => 1
  | .setbits _ _ | .clrbits _ _ | .antoff | .stopcrypto => 2
  | .anton => 3
  | .crc _ => crcBound P.maxFrame
  | .transceive _ => exchangeBound P.maxFrame
  | .request _ => 1 + exchangeBound 1
  | .anticoll => 1 + exchangeBound 2
  | .select _ => crcBound 7 + exchangeBound 9
  | .auth _ _ _ _ => exchangeBound 12 + 1
  | .read _ | .halt => crcBound 2 + exchangeBound 4
  | .write _ _ => crcBound 2 + exchangeBound 4 + crcBound 16 + exchangeBound 18
  | .readuid => 1 + exchangeBound 1 + 1 + exchangeBound 2
  | .init => 1 + P.initSequence.length + 3
  | j => (encode P j).length

theorem execSelect_atMost {u : List Byte} {s t : State} (h : execSelect u s = .next t) :
    PerformsAtMost s.params (crcBound 7 + exchangeBound 9) s.bus t.bus := by
  cases h
  dsimp only
  split
  case isFalse => exact .none _ _ _
  case isTrue hu =>
    have hf : (selectFrame s.params u).length = 7 := by
      have hlen := (selectLengthOk_iff u).mp hu
      simp [selectFrame, uidLen, hlen]
    have hx := State.exchangeWithCrc_atMost (selectFrame s.params u) (s.begin.markHostDuty (uidBroken u))
    rw [hf] at hx
    split <;> exact hx

theorem execAuth_atMost {mode blk : Byte} {key uid : List Byte} {s t : State}
    (h : execAuth mode blk key uid s = .next t) : PerformsAtMost s.params (exchangeBound 12 + 1) s.bus t.bus := by
  cases h
  dsimp only
  split
  case isFalse => exact .none _ _ _
  case isTrue hl =>
    have hf : (authFrame mode blk key uid).length = 12 := by
      obtain ⟨hkey, huid⟩ := (authLengthsOk_iff key uid).mp hl
      simp [authFrame, keyLen, uidIdLen, hkey, huid]
    have hx := s.begin.pcdExchange_atMost .mfAuthent (authFrame mode blk key uid)
    rw [hf] at hx
    split <;> exact hx.append (Bus.read_atMost _ _ _)

theorem execWrite_atMost {blk : Byte} {d : List Byte} {s t : State} (h : execWrite blk d s = .next t) :
    PerformsAtMost s.params (crcBound 2 + exchangeBound 4 + crcBound 16 + exchangeBound 18) s.bus t.bus := by
  cases h
  dsimp only
  split
  case isFalse => exact .none _ _ _
  case isTrue hd =>
    have hlen := (writeLengthOk_iff d).mp hd
    have h1 := State.exchangeWithCrc_atMost (writeFrame s.params blk) (s.begin.markHostDuty (!s.authenticated))
    split
    · have h2 := State.exchangeWithCrc_atMost d
        ((s.begin.markHostDuty (!s.authenticated)).exchangeWithCrc (writeFrame s.params blk)).2
      rw [hlen] at h2
      exact (h1.append h2).mono (Nat.add_assoc _ _ _).ge
    · exact h1.mono ((Nat.le_add_right _ _).trans (Nat.add_assoc _ _ _).ge)

theorem execReaduid_atMost {s t : State} (h : execReaduid s = .next t) :
    PerformsAtMost s.params (1 + exchangeBound 1 + 1 + exchangeBound 2) s.bus t.bus := by
  cases h
  have h1 := s.begin.request_atMost s.params.picc.reqidl
  have h2 := (s.begin.request s.params.picc.reqidl).2.anticoll_atMost
  rw [State.request_params] at h2
  dsimp only
  split
  · exact h1.mono (Nat.le_add_right_of_le (Nat.le_add_right _ _))
  · split <;> exact (h1.append h2).mono (Nat.add_assoc _ _ _).ge

/-- Every instruction performs at most its bound of transactions. -/
theorem exec_atMost {i : Instr} {s t : State} (h : exec i s = .next t) :
    PerformsAtMost s.params (transactionBound s.params i) s.bus t.bus := by
  cases i with
  | wreg a v => cases h; exact Bus.write_atMost _ _ _ _
  | rreg a => cases h; exact Bus.read_atMost _ _ _
  | setbits a m => cases h; exact Bus.setBits_atMost _ _ _ _
  | clrbits a m => cases h; exact Bus.clearBits_atMost _ _ _ _
  | anton => cases h; exact Bus.antennaOn_atMost _ _
  | antoff => cases h; exact Bus.clearBits_atMost _ _ _ _
  | crc d =>
    cases h
    dsimp only
    split
    case isTrue hd => exact (s.begin.calculateCrc_atMost d).mono (crcBound_mono ((frameLengthOk_iff _ d).mp hd))
    case isFalse => exact .none _ _ _
  | transceive d =>
    cases h
    dsimp only
    split
    case isTrue hd =>
      exact (s.begin.pcdExchange_atMost .transceive d).mono (exchangeBound_mono ((frameLengthOk_iff _ d).mp hd))
    case isFalse => exact .none _ _ _
  | request mode =>
    cases h
    dsimp only
    split <;> exact s.begin.request_atMost mode
  | anticoll =>
    cases h
    dsimp only
    split <;> exact s.begin.anticoll_atMost
  | select u => exact execSelect_atMost h
  | auth mode blk key uid => exact execAuth_atMost h
  | stopcrypto => cases h; exact Bus.clearBits_atMost _ _ _ _
  | read blk =>
    cases h
    exact State.exchangeWithCrc_atMost (readFrame s.params blk) (s.begin.markHostDuty (!s.authenticated))
  | write blk d => exact execWrite_atMost h
  | halt => cases h; exact State.exchangeWithCrc_atMost (haltFrame s.params) s.begin
  | readuid => exact execReaduid_atMost h
  | init =>
    cases h
    exact ((Bus.write_atMost _ _ _ _).append (Bus.writePairs_atMost _ _ _)).append (Bus.antennaOn_atMost _ _)
  | busW a v => cases h; exact Bus.write_atMost _ _ _ _
  | busR a => cases h; exact Bus.read_atMost _ _ _
  | pcdIdle | pcdCalcCRC | pcdTransmit | pcdReceive | pcdTransceive | pcdMFAuthent | pcdSoftReset =>
    rw [exec_of_chipCommand rfl] at h
    cases h
    exact Bus.write_atMost _ _ _ _
  | piccReqidl | piccReqall | piccAnticoll | piccSelect | piccAuth1a | piccAuth1b | piccRead | piccWrite | piccDecrement
  | piccIncrement | piccRestore | piccTransfer | piccHalt =>
    rw [exec_of_cardFrame rfl] at h
    cases h
    exact Bus.load_atMost _ _ _ _

/-- Settles O53: the transactions performed are those the trace grew by, and `transactionBound` bounds them. -/
theorem transactionCountsAreBounded : Obligations.TransactionCountsAreBounded := by
  intro i s t ts h htrace
  obtain ⟨us, hp, hlen⟩ := exec_atMost h
  obtain rfl : us = ts := List.append_cancel_left (hp.trace.symm.trans htrace)
  cases i <;> exact hlen

end Sys2Proof.Machine
end

section
/-! SUPPORT. What is sent and returned does not depend on what was sent and returned before, nor on the session: two
runs whose buses have the same answers to give proceed in step. -/

namespace Sys2Proof.Machine

/-! ### A bus with a longer past -/

/-- `b` after the past of `past`: the answers to come are those of `b`. -/
def Bus.prepend (past b : Bus) : Bus :=
  { b with trace := past.trace ++ b.trace, wire := past.wire ++ b.wire }

/-- The bus with the same answers to come and no past. -/
def Bus.forget (b : Bus) : Bus := { b with trace := [], wire := [] }

theorem Bus.prepend_forget (b : Bus) : b.prepend b.forget = b := by
  simp [Bus.prepend, Bus.forget]

theorem Bus.forget_eq {b c : Bus} (ha : b.answers = c.answers) (hd : b.draws = c.draws) : b.forget = c.forget := by
  simp [Bus.forget, ha, hd]

/-- The same transactions are performed after a longer past. -/
theorem Performed.prepend {P : Params} {b c : Bus} {ts : List Transaction} (past : Bus) (h : Performed P b ts c) :
    Performed P (past.prepend b) ts (past.prepend c) where
  trace := by simp [Bus.prepend, h.trace]
  wire := by simp [Bus.prepend, h.wire]
  values := h.values
  answers := h.answers
  draws := h.draws

section
variable (past b : Bus) (P : Params) (a : RegAddr)

@[simp] theorem Bus.write_prepend (v : Byte) : (past.prepend b).write a v = past.prepend (b.write a v) := by
  simp [Bus.write, Bus.emit, Bus.record, Bus.prepend]

@[simp] theorem Bus.read_prepend :
    (past.prepend b).read P a = Prod.map id past.prepend (b.read P a) := by
  cases h : b.answers <;> simp [Bus.read, Bus.emit, Bus.record, Bus.draw, Bus.prepend, h]

@[simp] theorem Bus.setBits_prepend (m : Byte) : (past.prepend b).setBits P a m = past.prepend (b.setBits P a m) := by
  simp [Bus.setBits]

@[simp] theorem Bus.clearBits_prepend (m : Byte) :
    (past.prepend b).clearBits P a m = past.prepend (b.clearBits P a m) := by
  simp [Bus.clearBits]

@[simp] theorem Bus.load_prepend (d : List Byte) : (past.prepend b).load a d = past.prepend (b.load a d) := by
  induction d generalizing b with
  | nil => rfl
  | cons v d ih => simp [Bus.load, ih]

@[simp] theorem Bus.writePairs_prepend (ps : List (RegAddr × Byte)) :
    (past.prepend b).writePairs ps = past.prepend (b.writePairs ps) := by
  induction ps generalizing b with
  | nil => rfl
  | cons p ps ih => simp [Bus.writePairs, ih]

@[simp] theorem Bus.drain_prepend (n : Nat) :
    (past.prepend b).drain P a n = Prod.map id past.prepend (b.drain P a n) := by
  induction n generalizing b with
  | zero => rfl
  | succ n ih => simp [Bus.drain, ih]

@[simp] theorem Bus.poll_prepend (mask : Byte) (budget : Nat) (last : Byte) :
    (past.prepend b).poll P a mask budget last =
      { b.poll P a mask budget last with bus := past.prepend (b.poll P a mask budget last).bus } := by
  induction budget generalizing last b with
  | zero => rfl
  | succ n ih =>
    simp only [Bus.poll, Bus.read_prepend, Prod.map_fst, Prod.map_snd, id, ih]
    split <;> rfl

@[simp] theorem Bus.antennaOn_prepend : (past.prepend b).antennaOn P = past.prepend (b.antennaOn P) := by
  simp only [Bus.antennaOn, Bus.read_prepend, Prod.map_fst, Prod.map_snd, id, Bus.setBits_prepend]
  split <;> rfl

@[simp] theorem Bus.calculateCrc_prepend (d : List Byte) :
    (past.prepend b).calculateCrc P d =
      { b.calculateCrc P d with bus := past.prepend (b.calculateCrc P d).bus } := by
  simp [Bus.calculateCrc]

@[simp] theorem Bus.startExchange_prepend (cmd : ExchangeCommand) (d : List Byte) :
    (past.prepend b).startExchange P cmd d = past.prepend (b.startExchange P cmd d) := by
  cases cmd <;> simp [Bus.startExchange]

@[simp] theorem Bus.drainResponse_prepend (status : Status) :
    (past.prepend b).drainResponse P status = Prod.map id past.prepend (b.drainResponse P status) := by
  simp [Bus.drainResponse]

@[simp] theorem Bus.finishExchange_prepend (cmd : ExchangeCommand) (irq : Byte) :
    (past.prepend b).finishExchange P cmd irq = Prod.map id past.prepend (b.finishExchange P cmd irq) := by
  simp only [Bus.finishExchange, Bus.read_prepend, Prod.map_fst, Prod.map_snd, id, Bus.drainResponse_prepend,
    apply_ite (Prod.map id past.prepend)]
  rfl

@[simp] theorem Bus.pcdExchange_prepend (cmd : ExchangeCommand) (d : List Byte) :
    (past.prepend b).pcdExchange P cmd d = Prod.map id past.prepend (b.pcdExchange P cmd d) := by
  simp only [Bus.pcdExchange, Bus.startExchange_prepend, Bus.poll_prepend, Bus.clearBits_prepend,
    Bus.finishExchange_prepend, apply_ite (Prod.map id past.prepend)]
  rfl

end

/-! ### Two runs in step -/

/-- `s` is where `u` is, after the past of `past`: they have the same parameters and the same answers to come, and `s`
has sent and returned, after what `past` had, what `u` has. Of the session nothing is said: an update of a session field
keeps two states in step by definition. -/
def InStep (past s u : State) : Prop :=
  s.params = u.params ∧ s.bus = past.bus.prepend u.bus ∧ s.results = past.results ++ u.results

/-- Two states in step, and the same value returned with them. -/
def AnswersInStep {α : Type} (past : State) (q r : α × State) : Prop := q.1 = r.1 ∧ InStep past q.2 r.2

section
variable {past s u : State}

theorem InStep.params (h : InStep past s u) : s.params = u.params := h.1

theorem InStep.bus (h : InStep past s u) : s.bus = past.bus.prepend u.bus := h.2.1

theorem InStep.results (h : InStep past s u) : s.results = past.results ++ u.results := h.2.2

theorem InStep.begin (h : InStep past s u) : InStep past s.begin u.begin := h

theorem InStep.markHostDuty (h : InStep past s u) (c d : Bool) :
    InStep past (s.markHostDuty c) (u.markHostDuty d) := h

theorem InStep.onBus (h : InStep past s u) {f : Bus → Bus}
    (hf : ∀ b, f (past.bus.prepend b) = past.bus.prepend (f b)) : InStep past (s.onBus f) (u.onBus f) :=
  ⟨h.params, (congrArg f h.bus).trans (hf _), h.results⟩

theorem InStep.issueCommand (h : InStep past s u) (code : Byte) :
    InStep past (s.issueCommand code) (u.issueCommand code) := by
  simp only [State.issueCommand, h.params]
  exact h.onBus fun b => Bus.write_prepend past.bus b _ code

theorem InStep.loadFrame (h : InStep past s u) (f : List Byte) : InStep past (s.loadFrame f) (u.loadFrame f) := by
  simp only [State.loadFrame, h.params]
  exact h.onBus fun b => Bus.load_prepend past.bus b _ f

theorem InStep.complete (h : InStep past s u) {q r : Result} (hr : q = r) :
    InStep past (s.complete q) (u.complete r) :=
  ⟨h.params, h.bus, by rw [State.complete_results, State.complete_results, h.results, hr, List.append_assoc]⟩

theorem InStep.refuse (h : InStep past s u) (e : RefusalReason) : InStep past (s.refuse e) (u.refuse e) :=
  InStep.complete (s := { s with refused := true }) (u := { u with refused := true }) h rfl

/-- Where both runs test the same, they stay in step if they do on either side of the test. -/
theorem InStep.ite {s' u' : State} {c d : Bool} (hc : c = d) (h : InStep past s u) (h' : InStep past s' u') :
    InStep past (if c then s else s') (if d then u else u') := by
  subst hc
  split
  · exact h
  · exact h'

theorem InStep.calculateCrc (h : InStep past s u) (d : List Byte) :
    AnswersInStep past (s.calculateCrc d) (u.calculateCrc d) := by
  simp only [AnswersInStep, State.calculateCrc, h.params, h.bus, Bus.calculateCrc_prepend, true_and]
  exact ⟨h.params, rfl, h.results⟩

theorem InStep.pcdExchange (h : InStep past s u) (cmd : ExchangeCommand) (d : List Byte) :
    AnswersInStep past (s.pcdExchange cmd d) (u.pcdExchange cmd d) := by
  simp only [AnswersInStep, State.pcdExchange, h.params, h.bus, Bus.pcdExchange_prepend, Prod.map_fst, id, true_and]
  exact ⟨h.params, rfl, h.results⟩

theorem InStep.exchangeWithCrc (h : InStep past s u) (f : List Byte) :
    AnswersInStep past (s.exchangeWithCrc f) (u.exchangeWithCrc f) := by
  obtain ⟨hc, h1⟩ := h.calculateCrc f
  simp only [State.exchangeWithCrc, hc]
  exact h1.pcdExchange .transceive _

/-- One more read, of a register both runs name alike. -/
theorem InStep.read (h : InStep past s u) (P : Params) (a : RegAddr) :
    (s.bus.read P a).1 = (u.bus.read P a).1 ∧
      InStep past (s.onBus fun _ => (s.bus.read P a).2) (u.onBus fun _ => (u.bus.read P a).2) := by
  simp only [h.bus, Bus.read_prepend, Prod.map_fst, id, true_and]
  exact ⟨h.params, rfl, h.results⟩

/-- A framing write and an exchange (43_protocol.md R190, R195). -/
theorem InStep.framedExchange (h : InStep past s u) (v : Byte) (d : List Byte) :
    AnswersInStep past ((s.onBus (Bus.write u.params.reg.bitFraming v)).pcdExchange .transceive d)
      ((u.onBus (Bus.write u.params.reg.bitFraming v)).pcdExchange .transceive d) :=
  (h.onBus fun b => Bus.write_prepend past.bus b _ v).pcdExchange .transceive d

theorem InStep.request (h : InStep past s u) (mode : Byte) :
    AnswersInStep past (s.request mode) (u.request mode) := by
  obtain ⟨hr, hx⟩ := h.framedExchange shortFrame [mode]
  simp only [State.request, h.params, hr]
  split <;> exact ⟨rfl, hx⟩

theorem InStep.anticoll (h : InStep past s u) : AnswersInStep past s.anticoll u.anticoll := by
  obtain ⟨hr, hx⟩ := h.framedExchange u.params.fullFrame (anticollFrame u.params)
  simp only [State.anticoll, h.params, hr]
  split <;> exact ⟨rfl, hx⟩

/-! ### The instructions -/

variable {t v : State}

/-- What one run performs between two points in step, the other performs too. -/
theorem InStep.performed {ts : List Transaction} (hs : InStep past s u) (ht : InStep past t v)
    (hp : Performed u.params u.bus ts v.bus) : Performed s.params s.bus ts t.bus := by
  rw [hs.params, hs.bus, ht.bus]
  exact hp.prepend past.bus

theorem execSelect_inStep {d : List Byte} (hs : InStep past s u) (ht : execSelect d s = .next t)
    (hv : execSelect d u = .next v) : InStep past t v := by
  cases ht
  cases hv
  obtain ⟨hr, hx⟩ := (hs.begin.markHostDuty (uidBroken d) (uidBroken d)).exchangeWithCrc (selectFrame u.params d)
  rw [hs.params]
  exact .ite rfl (.ite (congrArg selectOk hr) (InStep.complete hx (by rw [hr])) (InStep.complete hx rfl)) (hs.refuse _)

theorem execAuth_inStep {mode blk : Byte} {key uid : List Byte} (hs : InStep past s u)
    (ht : execAuth mode blk key uid s = .next t) (hv : execAuth mode blk key uid u = .next v) : InStep past t v := by
  cases ht
  cases hv
  obtain ⟨hr, hx⟩ := hs.begin.pcdExchange .mfAuthent (authFrame mode blk key uid)
  obtain ⟨h2, hy⟩ := hx.read u.params u.params.reg.status2
  rw [hs.params]
  exact .ite rfl (.ite (by rw [hr, h2]) (InStep.complete hy rfl) (InStep.complete hy rfl)) (hs.refuse _)

theorem execWrite_inStep {blk : Byte} {d : List Byte} (hs : InStep past s u)
    (ht : execWrite blk d s = .next t) (hv : execWrite blk d u = .next v) : InStep past t v := by
  cases ht
  cases hv
  obtain ⟨hr1, h1⟩ := (hs.begin.markHostDuty (!s.authenticated) (!u.authenticated)).exchangeWithCrc
    (writeFrame u.params blk)
  obtain ⟨hr2, h2⟩ := h1.exchangeWithCrc d
  rw [hs.params]
  exact .ite rfl (.ite (congrArg ack hr1) (h2.complete (by rw [hr2])) (h1.complete rfl)) (hs.refuse _)

theorem execReaduid_inStep (hs : InStep past s u) (ht : execReaduid s = .next t) (hv : execReaduid u = .next v) :
    InStep past t v := by
  cases ht
  cases hv
  obtain ⟨hr, h1⟩ := hs.begin.request u.params.picc.reqidl
  obtain ⟨ha, h2⟩ := h1.anticoll
  dsimp only
  rw [hs.params, hr, ha]
  split
  · exact h1.complete rfl
  · split
    · exact h2.complete rfl
    · exact h2.complete rfl

/-- Two states in step stay in step under every instruction: what it sends and returns is the same in both. -/
theorem exec_inStep {i : Instr} (hs : InStep past s u) (ht : exec i s = .next t) (hv : exec i u = .next v) :
    InStep past t v := by
  cases i with
  | wreg a x =>
    cases ht
    cases hv
    exact (hs.begin.onBus fun b => Bus.write_prepend past.bus b _ x).complete rfl
  | rreg a =>
    cases ht
    cases hv
    obtain ⟨hr, h1⟩ := hs.begin.read u.params (regAddr a)
    rw [hs.params]
    exact h1.complete (congrArg Result.byte hr)
  | setbits a m =>
    cases ht
    cases hv
    rw [hs.params]
    exact (hs.begin.onBus fun b => Bus.setBits_prepend past.bus b _ _ m).complete rfl
  | clrbits a m =>
    cases ht
    cases hv
    rw [hs.params]
    exact (hs.begin.onBus fun b => Bus.clearBits_prepend past.bus b _ _ m).complete rfl
  | anton =>
    cases ht
    cases hv
    rw [hs.params]
    exact InStep.complete (hs.begin.onBus fun b => Bus.antennaOn_prepend past.bus b _) rfl
  | antoff =>
    cases ht
    cases hv
    rw [hs.params]
    exact InStep.complete (hs.begin.onBus fun b => Bus.clearBits_prepend past.bus b _ _ _) rfl
  | stopcrypto =>
    cases ht
    cases hv
    rw [hs.params]
    exact InStep.complete (hs.begin.onBus fun b => Bus.clearBits_prepend past.bus b _ _ _) rfl
  | crc d =>
    cases ht
    cases hv
    obtain ⟨hc, h1⟩ := hs.begin.calculateCrc d
    rw [hs.params]
    exact .ite rfl (h1.complete (by rw [hc])) (hs.refuse _)
  | transceive d =>
    cases ht
    cases hv
    obtain ⟨hr, h1⟩ := hs.begin.pcdExchange .transceive d
    rw [hs.params]
    exact .ite rfl (h1.complete (by rw [hr])) (hs.refuse _)
  | request mode =>
    cases ht
    cases hv
    obtain ⟨hr, h1⟩ := hs.begin.request mode
    dsimp only
    rw [hr]
    split <;> exact h1.complete rfl
  | anticoll =>
    cases ht
    cases hv
    obtain ⟨hr, h1⟩ := hs.begin.anticoll
    dsimp only
    rw [hr]
    split <;> exact h1.complete rfl
  | select d => exact execSelect_inStep hs ht hv
  | auth mode blk key uid => exact execAuth_inStep hs ht hv
  | read blk =>
    cases ht
    cases hv
    obtain ⟨hr, h1⟩ := (hs.begin.markHostDuty (!s.authenticated) (!u.authenticated)).exchangeWithCrc
      (readFrame u.params blk)
    rw [hs.params]
    exact h1.complete (by rw [hr])
  | write blk d => exact execWrite_inStep hs ht hv
  | halt =>
    cases ht
    cases hv
    obtain ⟨hr, h1⟩ := hs.begin.exchangeWithCrc (haltFrame u.params)
    rw [hs.params]
    exact InStep.complete h1 (by rw [hr])
  | readuid => exact execReaduid_inStep hs ht hv
  | init =>
    cases ht
    cases hv
    rw [hs.params]
    exact InStep.complete (hs.onBus (f := fun b => ((b.write _ _).writePairs _).antennaOn _) fun b => by
      rw [Bus.write_prepend, Bus.writePairs_prepend, Bus.antennaOn_prepend]) rfl
  | busW a x =>
    cases ht
    cases hv
    exact hs.onBus fun b => Bus.write_prepend past.bus b a x
  | busR a =>
    cases ht
    cases hv
    rw [hs.params]
    exact hs.onBus fun b => by rw [Bus.read_prepend, Prod.map_snd]
  | pcdIdle | pcdCalcCRC | pcdTransmit | pcdReceive | pcdTransceive | pcdMFAuthent | pcdSoftReset =>
    rw [exec_of_chipCommand rfl] at ht hv
    cases ht
    cases hv
    rw [hs.params]
    exact hs.issueCommand _
  | piccReqidl | piccReqall | piccAnticoll | piccSelect | piccAuth1a | piccAuth1b | piccRead | piccWrite | piccDecrement
  | piccIncrement | piccRestore | piccTransfer | piccHalt =>
    rw [exec_of_cardFrame rfl] at ht hv
    cases ht
    cases hv
    rw [hs.params]
    exact hs.loadFrame _

end

/-- A state in which nothing has happened yet, with the parameters and the answers to come of `s`. -/
def State.forget (s : State) : State := { State.reset with bus := s.bus.forget, params := s.params }

theorem State.inStep_forget (s : State) : InStep s s s.forget :=
  ⟨rfl, s.bus.prepend_forget.symm, (List.append_nil _).symm⟩

/-- Settles O50: both runs are in step with the one from the state in which nothing has happened yet. -/
theorem sentAndReturnedIgnoreTheSession : Obligations.SentAndReturnedIgnoreTheSession := by
  intro i s s' t t' ha hd hP ht ht'
  obtain ⟨v, hv⟩ := exec_next i s.forget
  have hs' : InStep s' s' s.forget := by
    rw [State.forget, hP, Bus.forget_eq ha hd]
    exact s'.inStep_forget
  obtain ⟨ts, hp, -⟩ := exec_atMost hv
  have h := exec_inStep s.inStep_forget ht hv
  have h' := exec_inStep hs' ht' hv
  exact ⟨ts, v.results, s.inStep_forget.performed h hp, hs'.performed h' hp, h.results, h'.results⟩

end Sys2Proof.Machine
end

section
/-! SUPPORT. What an instruction does to the session record, the phase, the marks and the counters, said once: a host
operation in `HostStep`, every other form in `exec_of_port_ne_host`. -/

namespace Sys2Proof.Machine

/-! ### What each field becomes -/

/-- `S.antennaOn` after an instruction (10_state.md R21). -/
def antennaOnAfter (i : Instr) (a : Bool) : Bool :=
  match i with
  | .anton | .init => true
  | .antoff => false
  | _ => a

/-- `S.authenticated` after an instruction (R22); `confirmed` says whether AUTH returned its `Ok`. -/
def authenticatedAfter (i : Instr) (confirmed a : Bool) : Bool :=
  match i with
  | .auth _ _ _ _ => confirmed || a
  | .stopcrypto | .init => false
  | _ => a

/-- Whether an instruction sets `S.hostDuty` (60_exceptions.md R253, R282): it is a host operation, not refused, and
breaks a precondition. -/
def dutyMarked (i : Instr) (s : State) : Bool :=
  i.port = .host && (refusalOf s.params i).isNone && dutyBroken i s

/-- What a host operation that returned `r` does to every field but the bus and what is presented. A field left out where
one is built is as in most operations: it holds by computation. -/
structure HostStep (i : Instr) (r : Result) (s t : State) : Prop where
  antennaOn : t.antennaOn = antennaOnAfter i s.antennaOn := by rfl
  authenticated : t.authenticated = authenticatedAfter i (r = .authOk) s.authenticated := by rfl
  phase : PhaseEdge i r s.phase t.phase := by exact rfl
  initialised : s.initialised = true → t.initialised = true := by exact id
  opIndex : t.opIndex = s.opIndex + 1 := by rfl
  crcTimeout : s.crcTimeout = true → t.crcTimeout = true := by exact id
  hostDuty : t.hostDuty = (s.hostDuty || dutyMarked i s) := by rfl
  refused : s.refused = true → t.refused = true := by exact id
  results : t.results = s.results ++ [r] := by rfl
  params : t.params = s.params := by rfl

/-! ### Refusals -/

theorem refusalOf_crc (P : Params) (d : List Byte) :
    refusalOf P (.crc d) = if frameLengthOk P d then none else some .frameTooLong := by
  simp only [refusalOf, frameLengthOk_iff, ← Nat.not_le, ite_not]

theorem refusalOf_transceive (P : Params) (d : List Byte) :
    refusalOf P (.transceive d) = if frameLengthOk P d then none else some .frameTooLong := refusalOf_crc P d

theorem refusalOf_select (P : Params) (u : List Byte) :
    refusalOf P (.select u) = if selectLengthOk u then none else some .badArgument := by
  simp only [refusalOf, selectLengthOk_iff, ne_eq, ite_not]

theorem refusalOf_auth (P : Params) (mode blk : Byte) (key uid : List Byte) :
    refusalOf P (.auth mode blk key uid) = if authLengthsOk key uid then none else some .badArgument := by
  simp only [refusalOf, authLengthsOk_iff, ne_eq, ← Nat.not_le, ← not_and_or, ite_not]

theorem refusalOf_write (P : Params) (blk : Byte) (d : List Byte) :
    refusalOf P (.write blk d) = if writeLengthOk d then none else some .badArgument := by
  simp only [refusalOf, writeLengthOk_iff, ne_eq, ite_not]

theorem dutyMarked_of_refusalOf_none {i : Instr} {s : State} (hp : i.port = .host)
    (h : refusalOf s.params i = none) : dutyMarked i s = dutyBroken i s := by
  simp [dutyMarked, hp, h]

theorem dutyMarked_of_refusalOf_some {i : Instr} {s : State} {e : RefusalReason}
    (h : refusalOf s.params i = some e) : dutyMarked i s = false := by
  simp [dutyMarked, h]

/-- SELECT of five bytes marks a checksum that does not validate (R200). -/
theorem dutyBroken_select {u : List Byte} (h : u.length = 5) (s : State) :
    dutyBroken (.select u) s = (!s.initialised || uidBroken u) := by
  match u, h with
  | [b0, b1, b2, b3, b4], _ =>
    rw [uidBroken_eq]
    rfl

/-- A refused host operation is a `HostStep` too: it writes nothing of the session, the phase and `S.hostDuty`. -/
theorem refuse_hostStep {i : Instr} {e : RefusalReason} {s : State} (h : refusalOf s.params i = some e) :
    HostStep i (.refused e) s (s.refuse e) := by
  have hd : s.hostDuty = (s.hostDuty || dutyMarked i s) := by rw [dutyMarked_of_refusalOf_some h, Bool.or_false]
  cases i with
  | crc | transceive | select | auth | write => exact { hostDuty := hd, refused := fun _ => rfl }
  | _ => cases h

/-! ### The procedures -/

/-- STOPCRYPTO's edge is the table's (R208). -/
theorem stopCryptoPhase_eq (p : Phase) : stopCryptoPhase p = if p = .authenticated then .selected else p := by
  cases p <;> rfl

/-- `calculateCrc` leaves the bus and `S.crcTimeout`, which it only sets (41_crc_engine.md R142). -/
theorem State.calculateCrc_leaves (d : List Byte) (s : State) : ∃ c b m, (s.crcTimeout = true → m = true) ∧
    s.calculateCrc d = (c, { s with bus := b, crcTimeout := m }) := by
  obtain ⟨-, b, lo, hi, seen, -, -, h⟩ := s.calculateCrc_spec d
  exact ⟨(lo, hi), b, _, fun hs => by rw [hs, Bool.true_or], h⟩

/-- A frame sent with its CRC leaves the bus and `S.crcTimeout`, which it only sets (R142, R148). -/
theorem State.exchangeWithCrc_leaves (f : List Byte) (s : State) : ∃ r b m, (s.crcTimeout = true → m = true) ∧
    s.exchangeWithCrc f = (r, { s with bus := b, crcTimeout := m }) := by
  obtain ⟨-, b, r, seen, -, -, h⟩ := s.exchangeWithCrc_spec f
  exact ⟨r, b, _, fun hs => by rw [hs, Bool.true_or], h⟩

/-- `request` ends in one of two phases, by its verdict (43_protocol.md R190). -/
theorem State.request_cases (mode : Byte) (s : State) : ∃ b,
    (∃ atqa, s.request mode = (some atqa, { s with bus := b, phase := .requested })) ∨
      s.request mode = (none, { s with bus := b, phase := .idle }) := by
  obtain ⟨-, r, b, -, -, h⟩ := s.request_spec mode
  split at h
  · exact ⟨b, .inl ⟨_, h⟩⟩
  · exact ⟨b, .inr h⟩

/-- `anticoll` ends in one of two phases, by its verdict (R195). -/
theorem State.anticoll_cases (s : State) : ∃ b,
    (∃ u, s.anticoll = (some u, { s with bus := b, phase := .collisionResolved })) ∨
      s.anticoll = (none, { s with bus := b, phase := .idle }) := by
  obtain ⟨-, r, b, -, -, h⟩ := s.anticoll_spec
  split at h
  · exact ⟨b, .inl ⟨_, h⟩⟩
  · exact ⟨b, .inr h⟩

/-! ### The host operations -/

section
variable {s t : State}

theorem execCrc_hostStep {d : List Byte} (h : execCrc d s = .next t) : ∃ r, HostStep (.crc d) r s t := by
  have href := refusalOf_crc s.params d
  obtain ⟨c, b, m, hm, hc⟩ := s.begin.calculateCrc_leaves d
  rw [execCrc, hc] at h
  split at h <;> cases h
  case isTrue hd =>
    have hduty := dutyMarked_of_refusalOf_none rfl (href.trans (if_pos hd))
    exact ⟨.crcPair c.1 c.2, { crcTimeout := hm, hostDuty := by rw [hduty]; rfl }⟩
  case isFalse hd => exact ⟨_, refuse_hostStep (href.trans (if_neg hd))⟩

theorem execTransceive_hostStep {d : List Byte} (h : execTransceive d s = .next t) :
    ∃ r, HostStep (.transceive d) r s t := by
  have href := refusalOf_transceive s.params d
  obtain ⟨-, b, r, -, -, hr⟩ := s.begin.pcdExchange_spec .transceive d
  rw [execTransceive, hr] at h
  split at h <;> cases h
  case isTrue hd =>
    have hduty := dutyMarked_of_refusalOf_none rfl (href.trans (if_pos hd))
    exact ⟨.transceive r, { hostDuty := by rw [hduty]; rfl }⟩
  case isFalse hd => exact ⟨_, refuse_hostStep (href.trans (if_neg hd))⟩

theorem execRequest_hostStep {mode : Byte} (h : execRequest mode s = .next t) :
    ∃ r, HostStep (.request mode) r s t := by
  obtain ⟨b, ⟨atqa, hr⟩ | hr⟩ := s.begin.request_cases mode <;> rw [execRequest, hr] at h <;> cases h
  · exact ⟨.request .ok atqa, {}⟩
  · exact ⟨.request .err [], {}⟩

theorem execAnticoll_hostStep (h : execAnticoll s = .next t) : ∃ r, HostStep .anticoll r s t := by
  obtain ⟨b, ⟨u, hr⟩ | hr⟩ := s.begin.anticoll_cases <;> rw [execAnticoll, hr] at h <;> cases h
  · exact ⟨.anticoll .ok (some u), {}⟩
  · exact ⟨.anticoll .err none, {}⟩

theorem execSelect_hostStep {u : List Byte} (h : execSelect u s = .next t) : ∃ r, HostStep (.select u) r s t := by
  have href := refusalOf_select s.params u
  obtain ⟨r, b, m, hm, hr⟩ := (s.begin.markHostDuty (uidBroken u)).exchangeWithCrc_leaves (selectFrame s.params u)
  rw [execSelect, hr] at h
  split at h
  case isTrue hu =>
    have hduty : (s.hostDuty || !s.initialised || uidBroken u) = (s.hostDuty || dutyMarked (.select u) s) := by
      rw [dutyMarked_of_refusalOf_none rfl (href.trans (if_pos hu)), dutyBroken_select ((selectLengthOk_iff u).1 hu),
        Bool.or_assoc]
    dsimp only at h
    split at h <;> cases h
    · exact ⟨.sak (r.data.headD 0), { phase := .inl rfl, crcTimeout := hm, hostDuty := hduty }⟩
    · exact ⟨.sak noCardSak, { phase := .inr ⟨rfl, rfl⟩, crcTimeout := hm, hostDuty := hduty }⟩
  case isFalse hu =>
    cases h
    exact ⟨_, refuse_hostStep (href.trans (if_neg hu))⟩

theorem execAuth_hostStep {mode blk : Byte} {key uid : List Byte} (h : execAuth mode blk key uid s = .next t) :
    ∃ r, HostStep (.auth mode blk key uid) r s t := by
  have href := refusalOf_auth s.params mode blk key uid
  obtain ⟨-, b, r, -, -, hr⟩ := s.begin.pcdExchange_spec .mfAuthent (authFrame mode blk key uid)
  rw [execAuth, hr] at h
  split at h
  case isTrue hl =>
    have hduty := dutyMarked_of_refusalOf_none rfl (href.trans (if_pos hl))
    dsimp only at h
    split at h <;> cases h
    · exact ⟨.authOk, { hostDuty := by rw [hduty]; rfl }⟩
    · exact ⟨.authenticationError, { hostDuty := by rw [hduty]; rfl }⟩
  case isFalse hl =>
    cases h
    exact ⟨_, refuse_hostStep (href.trans (if_neg hl))⟩

theorem execRead_hostStep {blk : Byte} (h : execRead blk s = .next t) : ∃ r, HostStep (.read blk) r s t := by
  have hduty := Bool.or_assoc s.hostDuty (!s.initialised) (!s.authenticated)
  obtain ⟨r, b, m, hm, hr⟩ := (s.begin.markHostDuty (!s.authenticated)).exchangeWithCrc_leaves (readFrame s.params blk)
  rw [execRead, hr] at h
  cases h
  dsimp only
  split
  · exact ⟨.block r.data, { crcTimeout := hm, hostDuty := hduty }⟩
  · exact ⟨.readError blk, { crcTimeout := hm, hostDuty := hduty }⟩

theorem execWrite_hostStep {blk : Byte} {d : List Byte} (h : execWrite blk d s = .next t) :
    ∃ r, HostStep (.write blk d) r s t := by
  have href := refusalOf_write s.params blk d
  obtain ⟨r1, b1, m1, hm1, hr1⟩ :=
    (s.begin.markHostDuty (!s.authenticated)).exchangeWithCrc_leaves (writeFrame s.params blk)
  obtain ⟨r2, b2, m2, hm2, hr2⟩ := State.exchangeWithCrc_leaves d
    { s.begin.markHostDuty (!s.authenticated) with bus := b1, crcTimeout := m1 }
  rw [execWrite, hr1] at h
  split at h
  case isTrue hd =>
    have hduty : (s.hostDuty || !s.initialised || !s.authenticated) = (s.hostDuty || dutyMarked (.write blk d) s) := by
      rw [dutyMarked_of_refusalOf_none rfl (href.trans (if_pos hd)), Bool.or_assoc]
      rfl
    simp only [hr2] at h
    split at h <;> cases h
    · split
      · exact ⟨.unit, { crcTimeout := fun hs => hm2 (hm1 hs), hostDuty := hduty }⟩
      · exact ⟨.writeError blk .two, { crcTimeout := fun hs => hm2 (hm1 hs), hostDuty := hduty }⟩
    · exact ⟨.writeError blk .one, { crcTimeout := hm1, hostDuty := hduty }⟩
  case isFalse hd =>
    cases h
    exact ⟨_, refuse_hostStep (href.trans (if_neg hd))⟩

theorem execHalt_hostStep (h : execHalt s = .next t) : ∃ r, HostStep .halt r s t := by
  obtain ⟨r, b, m, hm, hr⟩ := s.begin.exchangeWithCrc_leaves (haltFrame s.params)
  rw [execHalt, hr] at h
  cases h
  exact ⟨.haltStatus r.status, { crcTimeout := hm }⟩

theorem execReaduid_hostStep (h : execReaduid s = .next t) : ∃ r, HostStep .readuid r s t := by
  obtain ⟨b, ⟨atqa, hr⟩ | hr⟩ := s.begin.request_cases s.params.picc.reqidl <;> rw [execReaduid, hr] at h
  · obtain ⟨c, ⟨u, ha⟩ | ha⟩ := State.anticoll_cases { s.begin with bus := b, phase := .requested } <;>
      simp only [ha] at h <;> cases h
    · exact ⟨.uid u, {}⟩
    · exact ⟨.noCard, {}⟩
  · cases h
    exact ⟨.noCard, {}⟩

/-- Every host operation, refused or not, is a `HostStep` with one result (10_state.md R57). -/
theorem exec_hostStep {i : Instr} (hp : i.port = .host) (h : exec i s = .next t) : ∃ r, HostStep i r s t := by
  cases i with
  | wreg | setbits | clrbits | anton | antoff => cases h; exact ⟨.unit, {}⟩
  | rreg => cases h; exact ⟨.byte _, {}⟩
  | crc => exact execCrc_hostStep h
  | transceive => exact execTransceive_hostStep h
  | request => exact execRequest_hostStep h
  | anticoll => exact execAnticoll_hostStep h
  | select => exact execSelect_hostStep h
  | auth => exact execAuth_hostStep h
  | stopcrypto => cases h; exact ⟨.unit, { phase := stopCryptoPhase_eq s.phase }⟩
  | read => exact execRead_hostStep h
  | write => exact execWrite_hostStep h
  | halt => exact execHalt_hostStep h
  | readuid => exact execReaduid_hostStep h
  | init => cases h; exact ⟨.unit, { initialised := fun _ => rfl, hostDuty := (Bool.or_false _).symm }⟩
  | _ => cases hp

/-- A form that is no host operation changes the bus and nothing else (log entry 7). -/
theorem exec_of_port_ne_host {i : Instr} (hp : i.port ≠ .host) (h : exec i s = .next t) :
    t = { s with bus := t.bus } := by
  cases hport : i.port with
  | host => exact absurd hport hp
  | bus =>
    cases i with
    | busW | busR => cases h; rfl
    | _ => cases hport
  | chipCommand =>
    rw [exec_of_chipCommand hport] at h
    cases h
    rfl
  | cardFrame =>
    rw [exec_of_cardFrame hport] at h
    cases h
    rfl

end

end Sys2Proof.Machine
end

section
/-! SUPPORT. The session record and the host-duty mark decide nothing of the rest of the state (10_state.md R21, R22):
two runs that differ in them alone end alike but for them. -/

namespace Sys2Proof.Machine

/-- `s` with another session record and another host-duty mark. -/
def State.withSession (a u d : Bool) (s : State) : State := { s with antennaOn := a, authenticated := u, hostDuty := d }

/-- `s` but for its session record and its host-duty mark. -/
def State.forgetSession (s : State) : State := s.withSession false false false

@[simp] theorem State.withSession_params (a u d : Bool) (s : State) : (s.withSession a u d).params = s.params := rfl

section
variable (a u d : Bool) (s : State)

theorem State.begin_withSession : (s.withSession a u d).begin = s.begin.withSession a u (d || !s.initialised) := rfl

theorem State.onBus_withSession (f : Bus → Bus) : (s.withSession a u d).onBus f = (s.onBus f).withSession a u d := rfl

theorem State.pcdExchange_withSession (cmd : ExchangeCommand) (f : List Byte) :
    (s.withSession a u d).pcdExchange cmd f = Prod.map id (State.withSession a u d) (s.pcdExchange cmd f) := rfl

theorem State.request_withSession (mode : Byte) :
    (s.withSession a u d).request mode = Prod.map id (State.withSession a u d) (s.request mode) := by
  simp only [State.request, apply_ite (Prod.map id (State.withSession a u d))]
  rfl

theorem State.anticoll_withSession :
    (s.withSession a u d).anticoll = Prod.map id (State.withSession a u d) s.anticoll := by
  simp only [State.anticoll, State.onBus_withSession, State.pcdExchange_withSession, State.withSession_params,
    Prod.map_fst, id]
  split <;> rfl

end

section
variable {a u d : Bool} {s t t' : State}

theorem execReaduid_ignores_session (h : execReaduid s = .next t) (h' : execReaduid (s.withSession a u d) = .next t') :
    t'.forgetSession = t.forgetSession := by
  cases h
  cases h'
  simp only [State.begin_withSession, State.request_withSession, State.withSession_params, Prod.map_fst,
    Prod.map_snd, id, State.anticoll_withSession]
  cases (s.begin.request s.params.picc.reqidl).1 with
  | none => rfl
  | some atqa =>
    dsimp only
    cases (s.begin.request s.params.picc.reqidl).2.anticoll.1 <;> rfl

/-- What an instruction does to the rest of the state, it does whatever the session record and the mark are. -/
theorem exec_ignores_session {i : Instr} (h : exec i s = .next t) (h' : exec i (s.withSession a u d) = .next t') :
    t'.forgetSession = t.forgetSession := by
  cases i with
  | crc | transceive | select | auth | write =>
    cases h
    cases h'
    simp only [apply_ite State.forgetSession]
    rfl
  | request mode =>
    cases h
    cases h'
    simp only [State.begin_withSession, State.request_withSession, Prod.map_fst, id]
    cases (s.begin.request mode).1 <;> rfl
  | anticoll =>
    cases h
    cases h'
    simp only [State.begin_withSession, State.anticoll_withSession, Prod.map_fst, id]
    cases s.begin.anticoll.1 <;> rfl
  | readuid => exact execReaduid_ignores_session h h'
  | _ =>
    cases h
    cases h'
    rfl

end

end Sys2Proof.Machine
end

section
/-! SUPPORT. Who writes the session record and what depends on it (10_state.md R21 to R23), the phase (R24, R25), the
count of operations (R27), that no step loses anything (R29), and the result codes (R52). -/

namespace Sys2Proof.Machine

/-! ### The session record and the host-duty mark after any instruction -/

theorem antennaOnAfter_of_port_ne_host {i : Instr} (hp : i.port ≠ .host) (a : Bool) : antennaOnAfter i a = a := by
  cases i with
  | anton | antoff | init => exact absurd rfl hp
  | _ => rfl

theorem authenticatedAfter_of_port_ne_host {i : Instr} (hp : i.port ≠ .host) (c a : Bool) :
    authenticatedAfter i c a = a := by
  cases i with
  | auth | stopcrypto | init => exact absurd rfl hp
  | _ => rfl

section
variable {i : Instr} {s t t' : State}

theorem exec_antennaOn (h : exec i s = .next t) : t.antennaOn = antennaOnAfter i s.antennaOn := by
  by_cases hp : i.port = .host
  · obtain ⟨r, hs⟩ := exec_hostStep hp h
    exact hs.antennaOn
  · rw [exec_of_port_ne_host hp h, antennaOnAfter_of_port_ne_host hp]

theorem exec_authenticated (h : exec i s = .next t) :
    t.authenticated = authenticatedAfter i (t.results = s.results ++ [.authOk]) s.authenticated := by
  by_cases hp : i.port = .host
  · obtain ⟨r, hs⟩ := exec_hostStep hp h
    simp only [hs.authenticated, hs.results, List.append_cancel_left_eq, List.cons.injEq, and_true]
  · rw [exec_of_port_ne_host hp h, authenticatedAfter_of_port_ne_host hp]

theorem exec_hostDuty (h : exec i s = .next t) : t.hostDuty = (s.hostDuty || dutyMarked i s) := by
  by_cases hp : i.port = .host
  · obtain ⟨r, hs⟩ := exec_hostStep hp h
    exact hs.hostDuty
  · rw [exec_of_port_ne_host hp h]
    simp [dutyMarked, hp]

/-- Only READ and WRITE look at `S.authenticated` for the mark (R22, R253). -/
theorem dutyMarked_ignores_authenticated (hi : ∀ blk d, i ≠ .read blk ∧ i ≠ .write blk d) (v : Bool) :
    dutyMarked i (s.setAuthenticated v) = dutyMarked i s := by
  cases i with
  | read blk => exact absurd rfl (hi blk []).1
  | write blk d => exact absurd rfl (hi blk d).2
  | select u =>
    by_cases hu : u.length = 5
    · simp only [dutyMarked, dutyBroken_select hu, State.setAuthenticated_params, State.setAuthenticated_initialised]
    · have hr (s : State) : refusalOf s.params (.select u) = some .badArgument := if_pos hu
      rw [dutyMarked_of_refusalOf_some (hr _), dutyMarked_of_refusalOf_some (hr _)]
  | _ => rfl

/-- States alike but for the session record and the mark are alike once these are overwritten. -/
theorem State.withSession_congr (h : t'.forgetSession = t.forgetSession) (a u d : Bool) :
    t'.withSession a u d = t.withSession a u d :=
  (congrArg (State.withSession a u d) h :)

/-- `S.antennaOn` decides nothing (R21). -/
theorem exec_ignores_antennaOn {v : Bool} (h : exec i s = .next t) (h' : exec i (s.setAntennaOn v) = .next t') :
    t'.setAntennaOn v = t.setAntennaOn v := by
  have halike : t'.forgetSession = t.forgetSession := exec_ignores_session (u := s.authenticated) (d := s.hostDuty) h h'
  have hres : t'.results = t.results := (congrArg State.results halike :)
  have hauth : t'.authenticated = t.authenticated := by
    rw [exec_authenticated h', exec_authenticated h, hres]
    rfl
  have hduty : t'.hostDuty = t.hostDuty := (exec_hostDuty h').trans (exec_hostDuty h).symm
  change t'.withSession v t'.authenticated t'.hostDuty = t.withSession v t.authenticated t.hostDuty
  rw [hauth, hduty, State.withSession_congr halike]

/-- `S.authenticated` decides nothing but itself and the mark (R22). -/
theorem exec_ignores_authenticated {v : Bool} (h : exec i s = .next t)
    (h' : exec i (s.setAuthenticated v) = .next t') :
    { t' with authenticated := v, hostDuty := v } = { t with authenticated := v, hostDuty := v } := by
  have halike : t'.forgetSession = t.forgetSession := exec_ignores_session (a := s.antennaOn) (d := s.hostDuty) h h'
  have hant : t'.antennaOn = t.antennaOn := (exec_antennaOn h').trans (exec_antennaOn h).symm
  change t'.withSession t'.antennaOn v v = t.withSession t.antennaOn v v
  rw [hant, State.withSession_congr halike]

end

/-- Settles O43: what `exec_antennaOn` says for each instruction, and that two runs differing in `S.antennaOn` end
alike. -/
theorem antennaOnIsOnlyARecord : Obligations.AntennaOnIsOnlyARecord := by
  refine ⟨fun i s t h => ?_, fun i s t v h => ?_⟩
  · rw [exec_antennaOn h]
    cases i <;> rfl
  · obtain ⟨t', h'⟩ := exec_next i (s.setAntennaOn v)
    exact ⟨t', h', exec_ignores_antennaOn h h'⟩

/-- Settles O44: AUTH's two outcomes are told apart by its result, and two runs differing in `S.authenticated` end
alike. -/
theorem authenticatedNeverBlocks : Obligations.AuthenticatedNeverBlocks := by
  refine ⟨fun i s t h => ?_, fun i s t v h => ?_⟩
  · have ha := exec_authenticated h
    cases i with
    | auth =>
      by_cases hr : t.results = s.results ++ [.authOk]
      · exact .inl ⟨hr, by rw [ha, decide_eq_true hr]; rfl⟩
      · exact .inr ⟨hr, by rw [ha, decide_eq_false hr]; rfl⟩
    | _ => exact ha
  · obtain ⟨t', h'⟩ := exec_next i (s.setAuthenticated v)
    refine ⟨t', h', exec_ignores_authenticated h h', fun hi => ?_⟩
    rw [exec_hostDuty h', exec_hostDuty h, dutyMarked_ignores_authenticated hi, State.setAuthenticated_hostDuty]

/-- Settles O45: the instructions left are those the two field equations give no write for. -/
theorem sessionIsLeftByEveryOtherOperation : Obligations.SessionIsLeftByEveryOtherOperation := by
  intro i s t hon hoff hinit hstop hauth h
  rw [exec_antennaOn h, exec_authenticated h]
  cases i with
  | anton => exact absurd rfl hon
  | antoff => exact absurd rfl hoff
  | init => exact absurd rfl hinit
  | stopcrypto => exact absurd rfl hstop
  | auth mode blk key uid => exact absurd rfl (hauth mode blk key uid)
  | _ => exact ⟨rfl, rfl⟩

/-- Settles O46: the edge is `HostStep.phase`, and a form that is no host operation leaves all but the bus. -/
theorem phaseFollowsTheTable : Obligations.PhaseFollowsTheTable := by
  refine ⟨fun i s t hp h => ?_, fun i s t hp h => ?_⟩
  · obtain ⟨r, hs⟩ := exec_hostStep hp h
    exact ⟨r, hs.results, hs.phase⟩
  · rw [exec_of_port_ne_host hp h]

/-- Settles O48: a `HostStep` has one result and one count, and every other form leaves all but the bus. -/
theorem everyHostOperationIsCountedOnce : Obligations.EveryHostOperationIsCountedOnce := by
  refine fun i s t h => ⟨fun hp => ?_, fun hp => ?_⟩
  · obtain ⟨r, hs⟩ := exec_hostStep hp h
    exact ⟨hs.opIndex, r, hs.results⟩
  · rw [exec_of_port_ne_host hp h]
    exact ⟨rfl, rfl⟩

/-! ### Nothing is lost -/

/-- From `s` to `t` no sticky mark is cleared, no history forgotten and no parameter changed (R27, R29). A field left out
where one is built is one that did not change. -/
structure State.Keeps (s t : State) : Prop where
  initialised : s.initialised = true → t.initialised = true := by exact id
  crcTimeout : s.crcTimeout = true → t.crcTimeout = true := by exact id
  hostDuty : s.hostDuty = true → t.hostDuty = true := by exact id
  refused : s.refused = true → t.refused = true := by exact id
  trace : s.bus.trace <+: t.bus.trace := by exact ⟨[], List.append_nil _⟩
  wire : s.bus.wire <+: t.bus.wire := by exact ⟨[], List.append_nil _⟩
  results : s.results <+: t.results := by exact ⟨[], List.append_nil _⟩
  opIndex : s.opIndex ≤ t.opIndex := by exact Nat.le_refl _
  params : t.params = s.params := by rfl

theorem exec_keeps {i : Instr} {s t : State} (h : exec i s = .next t) : s.Keeps t := by
  obtain ⟨ts, hbus, -⟩ := exec_atMost h
  have htrace : s.bus.trace <+: t.bus.trace := ⟨_, hbus.trace.symm⟩
  have hwire : s.bus.wire <+: t.bus.wire := ⟨_, hbus.wire.symm⟩
  by_cases hp : i.port = .host
  · obtain ⟨r, hs⟩ := exec_hostStep hp h
    exact
      { initialised := hs.initialised
        crcTimeout := hs.crcTimeout
        hostDuty := fun hd => by rw [hs.hostDuty, hd, Bool.true_or]
        refused := hs.refused
        trace := htrace
        wire := hwire
        results := ⟨[r], hs.results.symm⟩
        opIndex := hs.opIndex ▸ Nat.le_succ _
        params := hs.params }
  · rw [exec_of_port_ne_host hp h]
    exact { trace := htrace, wire := hwire }

theorem State.refuse_keeps (e : RefusalReason) (s : State) : s.Keeps (s.refuse e) :=
  { refused := fun _ => rfl, results := ⟨_, rfl⟩, opIndex := Nat.le_succ _ }

/-- A step that answers a next state found nothing presented, ran an instruction, or refused illegal host bytes. -/
theorem step_next_cases {s t : State} (h : step s = .next t) :
    t = s ∨ ∃ ps, (∃ i, exec i (s.withPending ps) = .next t) ∨ t = (s.withPending ps).refuse .illegalOperation := by
  cases hs : s.pending with
  | nil =>
    rw [step_of_nil hs] at h
    cases h
    exact .inl rfl
  | cons q rest =>
    cases q with
    | term i =>
      rw [step_of_term hs] at h
      exact .inr ⟨rest, .inl ⟨i, h⟩⟩
    | bytes p bs =>
      cases hd : decode s.params p bs with
      | ok d =>
        rw [step_of_bytes hs hd] at h
        exact .inr ⟨_, .inl ⟨d.1, h⟩⟩
      | error e =>
        simp only [step, fetch, hs, hd] at h
        cases p <;> cases h
        exact .inr ⟨_, .inr rfl⟩

/-- Settles O49: what a step takes from `S.pending` is none of these fields, and then `exec` or `refuse` keeps them. -/
theorem stepsNeverClearMarksOrHistory : Obligations.StepsNeverClearMarksOrHistory := by
  intro s t h
  have hk : s.Keeps t := by
    obtain rfl | ⟨ps, ⟨i, hi⟩ | rfl⟩ := step_next_cases h
    · exact {}
    · exact { exec_keeps hi with }
    · exact { (s.withPending ps).refuse_keeps .illegalOperation with }
  exact ⟨hk.initialised, hk.crcTimeout, hk.hostDuty, hk.refused, hk.trace, hk.wire, hk.results, hk.opIndex, hk.params⟩

/-- Settles O39, by the definitions of the codes. -/
theorem resultCodes : Obligations.ResultCodes :=
  ⟨rfl, rfl, rfl, rfl, fun _ => rfl, fun _ _ => rfl, rfl, fun _ => rfl⟩

end Sys2Proof.Machine
end

section
/-! SUPPORT. The decoders as tables of first bytes and argument readers (30_encoding.md R87, R92, R94), and that
decoding an encoding gives the instruction back (R81 to R95). -/

namespace Sys2Proof

/-! ### Decoding by a table -/

/-- What is read after a first byte or header of type `α`: its row in the table, or else `other`. -/
def dispatch {α : Type} [DecidableEq α] (other : Decoded) (c : α) (bs : List Byte) :
    List (α × (List Byte → Decoded)) → Decoded
  | [] => other
  | row :: rows => if c = row.1 then row.2 bs else dispatch other c bs rows

section
variable {α : Type} [DecidableEq α] {other : Decoded} {c : α} {bs : List Byte}
  {table : List (α × (List Byte → Decoded))}

theorem dispatch_of_not_mem (h : c ∉ table.map Prod.fst) : dispatch other c bs table = other := by
  induction table with
  | nil => rfl
  | cons row rows ih =>
    rw [List.map_cons, List.mem_cons, not_or] at h
    rw [dispatch, if_neg h.1, ih h.2]

/-- Where the keys tell the rows apart, each row is reached. -/
theorem dispatch_of_mem {read : List Byte → Decoded} (hn : (table.map Prod.fst).Nodup) (h : (c, read) ∈ table) :
    dispatch other c bs table = read bs := by
  induction table with
  | nil => cases h
  | cons row rows ih =>
    rw [List.map_cons, List.nodup_cons] at hn
    rcases List.mem_cons.mp h with rfl | h
    · rw [dispatch, if_pos rfl]
    · have hc : c ≠ row.1 := fun hc => hn.1 (hc ▸ List.mem_map_of_mem h)
      rw [dispatch, if_neg hc, ih hn.2 h]

/-- What is decoded by a table is read by a row of it, or is `other`. -/
theorem dispatch_cases (other : Decoded) (c : α) (bs : List Byte) (table : List (α × (List Byte → Decoded))) :
    (∃ read, (c, read) ∈ table ∧ dispatch other c bs table = read bs) ∨ dispatch other c bs table = other := by
  induction table with
  | nil => exact .inr rfl
  | cons row rows ih =>
    by_cases hc : c = row.1
    · exact .inl ⟨row.2, hc ▸ List.mem_cons_self, if_pos hc⟩
    · rw [dispatch, if_neg hc]
      exact ih.imp_left fun ⟨read, hm, hr⟩ => ⟨read, List.mem_cons_of_mem _ hm, hr⟩

end

/-! ### The tables -/

/-- AUTH's arguments: the mode, the block, the key and the identifier bytes (R87). -/
def readAuthArgs : List Byte → Decoded
  | mode :: bs => arg1N 10 (fun blk => keyAndUid (.auth mode blk)) bs
  | [] => .error .truncated

/-- The selectors of R87. -/
def hostTable : List (Byte × (List Byte → Decoded)) :=
  [(0x01, arg2 .wreg), (0x02, arg1 .rreg), (0x03, arg2 .setbits), (0x04, arg2 .clrbits), (0x05, arg0 .anton),
    (0x06, arg0 .antoff), (0x07, argCounted .crc), (0x08, argCounted .transceive), (0x09, arg1 .request),
    (0x0A, arg0 .anticoll), (0x0B, argN 5 .select), (0x0C, readAuthArgs), (0x0D, arg0 .stopcrypto), (0x0E, arg1 .read),
    (0x0F, arg1N 16 .write), (0x10, arg0 .halt), (0x11, arg0 .readuid), (0x12, arg0 .init)]

/-- The chip command codes of R92. -/
def commandTable (P : Params) : List (Byte × (List Byte → Decoded)) :=
  [(P.cmd.idle, arg0 .pcdIdle), (P.cmd.calcCrc, arg0 .pcdCalcCRC), (P.cmd.transmit, arg0 .pcdTransmit),
    (P.cmd.receive, arg0 .pcdReceive), (P.cmd.transceive, arg0 .pcdTransceive),
    (P.cmd.mfAuthent, arg0 .pcdMFAuthent), (P.cmd.softReset, arg0 .pcdSoftReset)]

/-- The card commands of one byte (R94). -/
def frameTable (P : Params) : List (Byte × (List Byte → Decoded)) :=
  [(P.picc.reqidl, arg0 .piccReqidl), (P.picc.reqall, arg0 .piccReqall),
    (P.picc.auth1a, arg1N 10 fun blk => keyAndUid (.piccAuth1a blk)),
    (P.picc.auth1b, arg1N 10 fun blk => keyAndUid (.piccAuth1b blk)),
    (P.picc.read, arg3 .piccRead), (P.picc.write, arg3 .piccWrite), (P.picc.decrement, arg0 .piccDecrement),
    (P.picc.increment, arg0 .piccIncrement), (P.picc.restore, arg0 .piccRestore), (P.picc.transfer, arg0 .piccTransfer)]

/-- The headers of two bytes (R94). -/
def headerTable (P : Params) : List ((Byte × Byte) × (List Byte → Decoded)) :=
  [(P.picc.anticoll, arg0 .piccAnticoll), ((P.picc.select, Machine.selectNvb), argSelectFrame .piccSelect),
    (P.picc.halt, arg2 .piccHalt)]

theorem decodeHost_cons (sel : Byte) (bs : List Byte) :
    decodeHost (sel :: bs) = dispatch (.error (.unknownSelector sel)) sel bs hostTable := by
  unfold decodeHost
  dsimp only
  split
  case h_12 => cases bs <;> rfl
  case h_19 => simp_all [hostTable, dispatch]
  all_goals rfl

theorem decodeCommand_cons (P : Params) (c : Byte) (bs : List Byte) :
    decodeCommand P (c :: bs) = dispatch (.error (.reservedCommand c)) c bs (commandTable P) := rfl

theorem decodeFrame_cons (P : Params) (c : Byte) (bs : List Byte) :
    decodeFrame P (c :: bs) = dispatch (if c ∈ P.picc.twoByte.map Prod.fst then decodeTwoByteHeader P c bs
      else .error (.unknownFrame c)) c bs (frameTable P) := by
  have hc : c ∈ P.picc.twoByte.map Prod.fst ↔ c = P.picc.anticoll.1 ∨ c = P.picc.select ∨ c = P.picc.halt.1 := by
    simp [CardBytes.twoByte]
  simp only [hc]
  rfl

theorem decodeTwoByteHeader_cons (P : Params) (c c2 : Byte) (bs : List Byte) :
    decodeTwoByteHeader P c (c2 :: bs) = dispatch (.error (.unknownFrame c2)) (c, c2) bs (headerTable P) := rfl

theorem hostTable_keys_nodup : (hostTable.map Prod.fst).Nodup := by decide

/-- The selectors are 0x01 to 0x12 (R89). -/
theorem hostTable_keys_range : ∀ sel ∈ hostTable.map Prod.fst, 0x01 ≤ sel.toNat ∧ sel.toNat ≤ 0x12 := by decide

theorem Params.legal_iff (P : Params) : P.legal = true ↔ P.reg.addresses.Nodup ∧ P.cmd.codes.Nodup ∧
    P.picc.oneByte.Nodup ∧ P.picc.twoByte.Nodup ∧ ∀ h ∈ P.picc.twoByte, h.1 ∉ P.picc.oneByte := by
  simp only [Params.legal, Bool.and_eq_true, decide_eq_true_eq, List.all_eq_true, Bool.not_eq_true',
    List.contains_iff_mem, Bool.eq_false_iff, ne_eq, and_assoc]

/-- Where the codes tell the rows apart (R92), each chip command code is decoded by its row. -/
theorem decodeCommand_of_mem {P : Params} (hP : P.legal = true) {c : Byte} {read : List Byte → Decoded}
    (h : (c, read) ∈ commandTable P) (bs : List Byte) : decodeCommand P (c :: bs) = read bs := by
  obtain ⟨-, hcodes, -⟩ := P.legal_iff.mp hP
  exact dispatch_of_mem (table := commandTable P) hcodes h

/-- Where the card commands tell the rows apart (R94), each one-byte card command is decoded by its row. -/
theorem decodeFrame_of_mem {P : Params} (hP : P.legal = true) {c : Byte} {read : List Byte → Decoded}
    (h : (c, read) ∈ frameTable P) (bs : List Byte) : decodeFrame P (c :: bs) = read bs := by
  obtain ⟨-, -, hone, -⟩ := P.legal_iff.mp hP
  rw [decodeFrame_cons]
  exact dispatch_of_mem (table := frameTable P) hone h

/-- Where the card commands tell the rows apart (R94), each two-byte header is decoded by its row. -/
theorem decodeFrame_of_header_mem {P : Params} (hP : P.legal = true) {c c2 : Byte} {read : List Byte → Decoded}
    (h : ((c, c2), read) ∈ headerTable P) (bs : List Byte) : decodeFrame P (c :: c2 :: bs) = read bs := by
  obtain ⟨-, -, -, htwo, hdistinct⟩ := P.legal_iff.mp hP
  have hmem : (c, c2) ∈ P.picc.twoByte := List.mem_map_of_mem (f := Prod.fst) h
  rw [decodeFrame_cons, dispatch_of_not_mem (table := frameTable P) (hdistinct _ hmem),
    if_pos (List.mem_map_of_mem (f := Prod.fst) hmem), decodeTwoByteHeader_cons]
  exact dispatch_of_mem (table := headerTable P) htwo h

/-! ### Decoding an encoding -/

theorem argN_append (f : List Byte → Instr) (d rest : List Byte) : argN d.length f (d ++ rest) = .ok (f d, rest) := by
  simp [argN]

theorem argCounted_append {f : List Byte → Instr} {d : List Byte} (h : d.length ≤ 255) (rest : List Byte) :
    argCounted f (BitVec.ofNat 8 d.length :: (d ++ rest)) = .ok (f d, rest) := by
  have hn : (BitVec.ofNat 8 d.length).toNat = d.length := by
    rw [BitVec.toNat_ofNat]
    omega
  rw [argCounted, hn, argN_append]

/-- AUTH and the AUTH frames are well-formed with a 6-byte key and 4 identifier bytes. -/
theorem lengths_of_wellFormed {key uid : List Byte} (h : (key.length = 6 && uid.length = 4 : Bool) = true) :
    key.length = 6 ∧ uid.length = 4 := by
  simpa using h

/-- The key and the identifier bytes of AUTH and of the AUTH frames. -/
theorem argN_keyAndUid_append {f : List Byte → List Byte → Instr} {key uid : List Byte} (hk : key.length = 6)
    (hu : uid.length = 4) (rest : List Byte) :
    argN 10 (keyAndUid f) (key ++ uid ++ rest) = .ok (f key uid, rest) := by
  have hn : (key ++ uid).length = 10 := by rw [List.length_append, hk, hu]
  rw [← hn, argN_append, keyAndUid, ← hk, List.take_left, List.drop_left]

theorem argSelectFrame_append {f : List Byte → Byte → Byte → Instr} {u : List Byte} (h : u.length = 5)
    (lo hi : Byte) (rest : List Byte) : argSelectFrame f (u ++ lo :: hi :: rest) = .ok (f u lo hi, rest) := by
  rw [argSelectFrame, if_pos (by simp [h]), ← h, List.take_left, List.drop_left, arg2]

theorem decodeHost_encode {P : Params} {i : Instr} (hp : i.port = .host) (hw : i.wellFormed = true)
    (rest : List Byte) : decodeHost (encode P i ++ rest) = .ok (i, rest) := by
  cases i with
  | wreg | rreg | setbits | clrbits | anton | antoff | request | anticoll | stopcrypto | read | halt | readuid | init =>
    rfl
  | crc d | transceive d => exact argCounted_append (of_decide_eq_true hw) rest
  | select u =>
    have hu : u.length = 5 := of_decide_eq_true hw
    exact (hu ▸ argN_append .select u rest :)
  | write blk d =>
    have hd : d.length = 16 := of_decide_eq_true hw
    exact (hd ▸ argN_append (.write blk) d rest :)
  | auth mode blk key uid =>
    obtain ⟨hk, hu⟩ := lengths_of_wellFormed hw
    rw [encode, List.take_of_length_le hu.le]
    exact argN_keyAndUid_append hk hu rest
  | _ => cases hp

/-! The address byte of a bus transaction and its parts (R82). -/

@[simp] theorem busAddrByte_bit_zero (isRead : Bool) (a : RegAddr) : (busAddrByte isRead a)[0] = false := by
  revert isRead a
  decide

@[simp] theorem busAddrByte_bit_seven (isRead : Bool) (a : RegAddr) : (busAddrByte isRead a)[7] = isRead := by
  revert isRead a
  decide

@[simp] theorem extractLsb'_busAddrByte (isRead : Bool) (a : RegAddr) :
    (busAddrByte isRead a).extractLsb' 1 6 = a := by
  revert isRead a
  decide

theorem decodeBus_encode {P : Params} {i : Instr} (hp : i.port = .bus) (rest : List Byte) :
    decodeBus P (encode P i ++ rest) = .ok (i, rest) := by
  cases i with
  | busW | busR => simp [encode, decodeBus]
  | _ => cases hp

/-- A chip command is its code, which its row reads (R92). -/
theorem encode_chipCommand {i : Instr} (hp : i.port = .chipCommand) (P : Params) :
    ∃ c, encode P i = [c] ∧ (c, arg0 i) ∈ commandTable P := by
  cases i with
  | pcdIdle | pcdCalcCRC | pcdTransmit | pcdReceive | pcdTransceive | pcdMFAuthent | pcdSoftReset =>
    exact ⟨_, rfl, by simp [commandTable]⟩
  | _ => cases hp

theorem decodeCommand_encode {P : Params} {i : Instr} (hp : i.port = .chipCommand) (hP : P.legal = true)
    (rest : List Byte) : decodeCommand P (encode P i ++ rest) = .ok (i, rest) := by
  obtain ⟨c, hc, hmem⟩ := encode_chipCommand hp P
  rw [hc]
  exact decodeCommand_of_mem hP hmem rest

theorem decodeFrame_encode {P : Params} {i : Instr} (hp : i.port = .cardFrame) (hw : i.wellFormed = true)
    (hP : P.legal = true) (rest : List Byte) : decodeFrame P (encode P i ++ rest) = .ok (i, rest) := by
  cases i with
  | piccReqidl => exact decodeFrame_of_mem hP (read := arg0 .piccReqidl) (by simp [frameTable]) _
  | piccReqall => exact decodeFrame_of_mem hP (read := arg0 .piccReqall) (by simp [frameTable]) _
  | piccRead => exact decodeFrame_of_mem hP (read := arg3 .piccRead) (by simp [frameTable]) _
  | piccWrite => exact decodeFrame_of_mem hP (read := arg3 .piccWrite) (by simp [frameTable]) _
  | piccDecrement => exact decodeFrame_of_mem hP (read := arg0 .piccDecrement) (by simp [frameTable]) _
  | piccIncrement => exact decodeFrame_of_mem hP (read := arg0 .piccIncrement) (by simp [frameTable]) _
  | piccRestore => exact decodeFrame_of_mem hP (read := arg0 .piccRestore) (by simp [frameTable]) _
  | piccTransfer => exact decodeFrame_of_mem hP (read := arg0 .piccTransfer) (by simp [frameTable]) _
  | piccAuth1a blk key uid =>
    obtain ⟨hk, hu⟩ := lengths_of_wellFormed hw
    exact (decodeFrame_of_mem hP (read := arg1N 10 fun blk => keyAndUid (.piccAuth1a blk)) (by simp [frameTable])
      _).trans (argN_keyAndUid_append hk hu rest)
  | piccAuth1b blk key uid =>
    obtain ⟨hk, hu⟩ := lengths_of_wellFormed hw
    exact (decodeFrame_of_mem hP (read := arg1N 10 fun blk => keyAndUid (.piccAuth1b blk)) (by simp [frameTable])
      _).trans (argN_keyAndUid_append hk hu rest)
  | piccAnticoll => exact decodeFrame_of_header_mem hP (read := arg0 .piccAnticoll) (by simp [headerTable]) _
  | piccHalt => exact decodeFrame_of_header_mem hP (read := arg2 .piccHalt) (by simp [headerTable]) _
  | piccSelect u lo hi =>
    rw [encode, List.cons_append, List.cons_append, List.append_assoc]
    exact (decodeFrame_of_header_mem hP (read := argSelectFrame .piccSelect) (by simp [headerTable]) _).trans
      (argSelectFrame_append (of_decide_eq_true hw) lo hi rest)
  | _ => cases hp

/-- Settles O1, space by space: the first byte reaches the instruction's row, whose reader takes its arguments back. -/
theorem decodeOfEncode : Obligations.DecodeOfEncode := by
  intro P i rest hw h
  cases hp : i.port with
  | host => exact decodeHost_encode hp hw rest
  | bus => exact decodeBus_encode hp rest
  | chipCommand =>
    rw [hp] at h
    exact decodeCommand_encode hp (by simpa using h) rest
  | cardFrame =>
    rw [hp] at h
    exact decodeFrame_encode hp hw (by simpa using h) rest

end Sys2Proof
end

section
/-! SUPPORT. What each reader of a table takes off a byte string, and from this that bytes which decode are an
encoding (30_encoding.md R81 to R95). -/

namespace Sys2Proof

/-! ### The readers -/

/-- `i` is an instruction of space `p` that is encoded as `header` and then `args`. -/
structure Carries (P : Params) (p : Port) (header args : List Byte) (i : Instr) : Prop where
  port : i.port = p
  wellFormed : i.wellFormed = true
  bytes : encode P i = header ++ args

/-- What `read` takes off a byte string, after `header`, is the encoding of the instruction it reads. -/
def ReadsEncoding (P : Params) (p : Port) (header : List Byte) (read : List Byte → Decoded) : Prop :=
  ∀ bs i rest, read bs = .ok (i, rest) → ∃ args, bs = args ++ rest ∧ Carries P p header args i

section
variable {P : Params} {p : Port} {header : List Byte} {n : Nat}

theorem arg0_readsEncoding {i : Instr} (h : Carries P p header [] i) : ReadsEncoding P p header (arg0 i) := by
  intro bs _ rest hr
  cases hr
  exact ⟨[], rfl, h⟩

theorem arg1_readsEncoding {f : Byte → Instr} (h : ∀ x, Carries P p header [x] (f x)) :
    ReadsEncoding P p header (arg1 f) := by
  intro bs i rest hr
  match bs with
  | [] => cases hr
  | [x] | x :: _ :: _ => cases hr; exact ⟨[x], rfl, h x⟩

theorem arg2_readsEncoding {f : Byte → Byte → Instr} (h : ∀ x y, Carries P p header [x, y] (f x y)) :
    ReadsEncoding P p header (arg2 f) := by
  intro bs i rest hr
  match bs with
  | [] | [_] => cases hr
  | x :: y :: _ => cases hr; exact ⟨[x, y], rfl, h x y⟩

theorem arg3_readsEncoding {f : Byte → Byte → Byte → Instr} (h : ∀ x y z, Carries P p header [x, y, z] (f x y z)) :
    ReadsEncoding P p header (arg3 f) := by
  intro bs i rest hr
  match bs with
  | [] | [_] | [_, _] => cases hr
  | x :: y :: z :: _ => cases hr; exact ⟨[x, y, z], rfl, h x y z⟩

theorem argN_readsEncoding {f : List Byte → Instr} (h : ∀ d, d.length = n → Carries P p header d (f d)) :
    ReadsEncoding P p header (argN n f) := by
  intro bs i rest hr
  rw [argN] at hr
  split at hr <;> cases hr
  case isTrue hn => exact ⟨bs.take n, (bs.take_append_drop n).symm, h _ (List.length_take_of_le hn)⟩

/-- A reader after one more byte `x`, which is the first of the arguments. -/
theorem readsEncoding_cons {f : Byte → List Byte → Decoded} {read : List Byte → Decoded} (hnil : ∀ e, read [] ≠ .ok e)
    (hcons : ∀ x bs, read (x :: bs) = f x bs) (h : ∀ x, ReadsEncoding P p (header ++ [x]) (f x)) :
    ReadsEncoding P p header read := by
  intro bs i rest hr
  match bs with
  | [] => exact absurd hr (hnil _)
  | x :: bs =>
    obtain ⟨args, rfl, hc⟩ := h x bs i rest (hcons x bs ▸ hr)
    exact ⟨x :: args, rfl, hc.port, hc.wellFormed, by rw [hc.bytes, List.append_assoc, List.singleton_append]⟩

theorem arg1N_readsEncoding {f : Byte → List Byte → Instr}
    (h : ∀ x d, d.length = n → Carries P p (header ++ [x]) d (f x d)) : ReadsEncoding P p header (arg1N n f) :=
  readsEncoding_cons nofun (fun _ _ => rfl) fun x => argN_readsEncoding (h x)

theorem argCounted_readsEncoding {f : List Byte → Instr}
    (h : ∀ d, d.length ≤ 255 → Carries P p (header ++ [BitVec.ofNat 8 d.length]) d (f d)) :
    ReadsEncoding P p header (argCounted f) := by
  refine readsEncoding_cons nofun (fun _ _ => rfl) fun x => argN_readsEncoding fun d hd => ?_
  have hx : x = BitVec.ofNat 8 d.length := by rw [hd, BitVec.ofNat_toNat, BitVec.setWidth_eq]
  exact hx ▸ h d (by omega)

theorem argSelectFrame_readsEncoding {f : List Byte → Byte → Byte → Instr}
    (h : ∀ u lo hi, u.length = 5 → Carries P p (header ++ u) [lo, hi] (f u lo hi)) :
    ReadsEncoding P p header (argSelectFrame f) := by
  intro bs i rest hr
  rw [argSelectFrame] at hr
  split at hr
  case isFalse => cases hr
  case isTrue hn =>
    obtain ⟨args, hargs, hc⟩ := arg2_readsEncoding (fun lo hi => h _ lo hi (List.length_take_of_le hn)) _ _ _ hr
    refine ⟨bs.take 5 ++ args, ?_, hc.port, hc.wellFormed, by rw [hc.bytes, List.append_assoc]⟩
    rw [List.append_assoc, ← hargs, List.take_append_drop]

/-- Ten bytes read as a key and identifier bytes are the two in order. -/
theorem keyAndUid_carries {f : List Byte → List Byte → Instr}
    (h : ∀ key uid, key.length = 6 → uid.length = 4 → Carries P p header (key ++ uid) (f key uid)) (d : List Byte)
    (hd : d.length = 10) : Carries P p header d (keyAndUid f d) := by
  have hc := h (d.take 6) (d.drop 6) (by simp [hd]) (by simp [hd])
  rwa [List.take_append_drop] at hc

theorem readAuthArgs_readsEncoding (P : Params) : ReadsEncoding P .host [0x0C] readAuthArgs := by
  refine readsEncoding_cons nofun (fun _ _ => rfl) fun mode =>
    arg1N_readsEncoding fun blk => keyAndUid_carries fun key uid hk hu => ⟨rfl, by simp [Instr.wellFormed, hk, hu], ?_⟩
  rw [encode, List.take_of_length_le hu.le]
  rfl

theorem hostTable_readsEncoding (P : Params) : ∀ row ∈ hostTable, ReadsEncoding P .host [row.1] row.2 := by
  simp only [hostTable, List.forall_mem_cons]
  exact ⟨arg2_readsEncoding fun _ _ => ⟨rfl, rfl, rfl⟩, arg1_readsEncoding fun _ => ⟨rfl, rfl, rfl⟩,
    arg2_readsEncoding fun _ _ => ⟨rfl, rfl, rfl⟩, arg2_readsEncoding fun _ _ => ⟨rfl, rfl, rfl⟩,
    arg0_readsEncoding ⟨rfl, rfl, rfl⟩, arg0_readsEncoding ⟨rfl, rfl, rfl⟩,
    argCounted_readsEncoding fun _ hd => ⟨rfl, decide_eq_true hd, rfl⟩,
    argCounted_readsEncoding fun _ hd => ⟨rfl, decide_eq_true hd, rfl⟩,
    arg1_readsEncoding fun _ => ⟨rfl, rfl, rfl⟩, arg0_readsEncoding ⟨rfl, rfl, rfl⟩,
    argN_readsEncoding fun _ hd => ⟨rfl, decide_eq_true hd, rfl⟩, readAuthArgs_readsEncoding P,
    arg0_readsEncoding ⟨rfl, rfl, rfl⟩, arg1_readsEncoding fun _ => ⟨rfl, rfl, rfl⟩,
    arg1N_readsEncoding fun _ _ hd => ⟨rfl, decide_eq_true hd, rfl⟩, arg0_readsEncoding ⟨rfl, rfl, rfl⟩,
    arg0_readsEncoding ⟨rfl, rfl, rfl⟩, arg0_readsEncoding ⟨rfl, rfl, rfl⟩, nofun⟩

theorem commandTable_readsEncoding (P : Params) :
    ∀ row ∈ commandTable P, ReadsEncoding P .chipCommand [row.1] row.2 := by
  simp only [commandTable, List.forall_mem_cons]
  exact ⟨arg0_readsEncoding ⟨rfl, rfl, rfl⟩, arg0_readsEncoding ⟨rfl, rfl, rfl⟩, arg0_readsEncoding ⟨rfl, rfl, rfl⟩,
    arg0_readsEncoding ⟨rfl, rfl, rfl⟩, arg0_readsEncoding ⟨rfl, rfl, rfl⟩, arg0_readsEncoding ⟨rfl, rfl, rfl⟩,
    arg0_readsEncoding ⟨rfl, rfl, rfl⟩, nofun⟩

theorem frameTable_readsEncoding (P : Params) : ∀ row ∈ frameTable P, ReadsEncoding P .cardFrame [row.1] row.2 := by
  simp only [frameTable, List.forall_mem_cons]
  exact ⟨arg0_readsEncoding ⟨rfl, rfl, rfl⟩, arg0_readsEncoding ⟨rfl, rfl, rfl⟩,
    arg1N_readsEncoding fun _ => keyAndUid_carries fun _ _ hk hu => ⟨rfl, by simp [Instr.wellFormed, hk, hu], rfl⟩,
    arg1N_readsEncoding fun _ => keyAndUid_carries fun _ _ hk hu => ⟨rfl, by simp [Instr.wellFormed, hk, hu], rfl⟩,
    arg3_readsEncoding fun _ _ _ => ⟨rfl, rfl, rfl⟩, arg3_readsEncoding fun _ _ _ => ⟨rfl, rfl, rfl⟩,
    arg0_readsEncoding ⟨rfl, rfl, rfl⟩, arg0_readsEncoding ⟨rfl, rfl, rfl⟩, arg0_readsEncoding ⟨rfl, rfl, rfl⟩,
    arg0_readsEncoding ⟨rfl, rfl, rfl⟩, nofun⟩

theorem headerTable_readsEncoding (P : Params) :
    ∀ row ∈ headerTable P, ReadsEncoding P .cardFrame [row.1.1, row.1.2] row.2 := by
  simp only [headerTable, List.forall_mem_cons]
  exact ⟨arg0_readsEncoding ⟨rfl, rfl, rfl⟩,
    argSelectFrame_readsEncoding fun u lo hi hu => ⟨rfl, decide_eq_true hu, by simp [encode]⟩,
    arg2_readsEncoding fun _ _ => ⟨rfl, rfl, rfl⟩, nofun⟩

end

/-! ### The decoders -/

/-- What a table's row read after `header` is the encoding of the instruction it read. -/
theorem ReadsEncoding.encode {P : Params} {p : Port} {header bs rest : List Byte} {read : List Byte → Decoded}
    {i : Instr} (h : ReadsEncoding P p header read) (hr : read bs = .ok (i, rest)) :
    i.port = p ∧ i.wellFormed = true ∧ encode P i ++ rest = header ++ bs := by
  obtain ⟨args, rfl, hc⟩ := h bs i rest hr
  exact ⟨hc.port, hc.wellFormed, by rw [hc.bytes, List.append_assoc]⟩

/-- What is decoded by a table whose other bytes spell nothing was read by a row. -/
theorem exists_row_of_dispatch {α : Type} [DecidableEq α] {e : DecodeError} {c : α} {bs rest : List Byte}
    {table : List (α × (List Byte → Decoded))} {i : Instr} (h : dispatch (.error e) c bs table = .ok (i, rest)) :
    ∃ read, (c, read) ∈ table ∧ read bs = .ok (i, rest) := by
  obtain ⟨read, hm, hr⟩ | hr := dispatch_cases (.error e) c bs table
  · exact ⟨read, hm, hr.symm.trans h⟩
  · cases hr.symm.trans h

section
variable {P : Params} {bs rest : List Byte} {i : Instr}

theorem encode_of_decodeHost (h : decodeHost bs = .ok (i, rest)) :
    i.port = .host ∧ i.wellFormed = true ∧ encode P i ++ rest = bs := by
  match bs with
  | [] => cases h
  | sel :: bs =>
    rw [decodeHost_cons] at h
    obtain ⟨read, hm, hr⟩ := exists_row_of_dispatch h
    exact (hostTable_readsEncoding P _ hm).encode hr

/-- An address byte with bit 0 clear is the one of its direction and its address (R82). -/
theorem busAddrByte_of_bits {c : Byte} (h : c.getLsbD 0 = false) :
    busAddrByte (c.getLsbD 7) (c.extractLsb' 1 6) = c := by
  revert c
  decide +kernel

theorem encode_of_decodeBus (h : decodeBus P bs = .ok (i, rest)) :
    i.port = .bus ∧ i.wellFormed = true ∧ encode P i ++ rest = bs := by
  match bs with
  | [] | [_] => cases h
  | c :: v :: bs =>
    rw [decodeBus] at h
    split at h
    case isTrue => cases h
    case isFalse h0 =>
      have hc := busAddrByte_of_bits (Bool.eq_false_iff.mpr h0)
      split at h
      case isTrue h7 =>
        rw [h7] at hc
        split at h <;> cases h
        case isTrue hv => exact ⟨rfl, rfl, by rw [encode, hc, hv]; rfl⟩
      case isFalse h7 =>
        rw [Bool.eq_false_iff.mpr h7] at hc
        cases h
        exact ⟨rfl, rfl, by rw [encode, hc]; rfl⟩

theorem encode_of_decodeCommand (h : decodeCommand P bs = .ok (i, rest)) :
    i.port = .chipCommand ∧ i.wellFormed = true ∧ encode P i ++ rest = bs := by
  match bs with
  | [] => cases h
  | c :: bs =>
    rw [decodeCommand_cons] at h
    obtain ⟨read, hm, hr⟩ := exists_row_of_dispatch h
    exact (commandTable_readsEncoding P _ hm).encode hr

theorem encode_of_decodeTwoByteHeader {c : Byte} (h : decodeTwoByteHeader P c bs = .ok (i, rest)) :
    i.port = .cardFrame ∧ i.wellFormed = true ∧ encode P i ++ rest = c :: bs := by
  match bs with
  | [] => cases h
  | c2 :: bs =>
    rw [decodeTwoByteHeader_cons] at h
    obtain ⟨read, hm, hr⟩ := exists_row_of_dispatch h
    exact (headerTable_readsEncoding P _ hm).encode hr

theorem encode_of_decodeFrame (h : decodeFrame P bs = .ok (i, rest)) :
    i.port = .cardFrame ∧ i.wellFormed = true ∧ encode P i ++ rest = bs := by
  match bs with
  | [] => cases h
  | c :: bs =>
    rw [decodeFrame_cons] at h
    obtain ⟨read, hm, hr⟩ | hr := dispatch_cases _ c bs (frameTable P) <;> rw [hr] at h
    · exact (frameTable_readsEncoding P _ hm).encode h
    · split at h
      · exact encode_of_decodeTwoByteHeader h
      · cases h

end

/-- Settles O2, space by space: the row that read the bytes takes off exactly an encoding. -/
theorem decodedBytesAreTheEncoding : Obligations.DecodedBytesAreTheEncoding := by
  intro P p bs i rest h
  cases p with
  | host => exact encode_of_decodeHost h
  | bus => exact encode_of_decodeBus h
  | chipCommand => exact encode_of_decodeCommand h
  | cardFrame => exact encode_of_decodeFrame h

end Sys2Proof
end

section
/-! SUPPORT. Bytes that decode to nothing (30_encoding.md R84, R85, R89, R93, R94), from both directions of the round
trip, and the words written out from the tables. -/

namespace Sys2Proof

/-- No encoding begins a longer one of its space: a string that ends too soon decodes to nothing. -/
theorem decode_take_encode {P : Params} {i : Instr} {n : Nat} (hw : i.wellFormed = true)
    (hP : i.port = .host ∨ i.port = .bus ∨ P.legal = true) (hn : n < (encode P i).length) :
    ∃ e, decode P i.port ((encode P i).take n) = .error e := by
  cases h : decode P i.port ((encode P i).take n) with
  | error e => exact ⟨e, rfl⟩
  | ok r =>
    obtain ⟨j, rest⟩ := r
    obtain ⟨hport, hwj, hj⟩ := decodedBytesAreTheEncoding P _ _ _ _ h
    have hsplit : encode P j ++ (rest ++ (encode P i).drop n) = encode P i ++ [] := by
      rw [← List.append_assoc, hj, List.take_append_drop, List.append_nil]
    have hdecode := decodeOfEncode P j (rest ++ (encode P i).drop n) hwj (hport ▸ hP)
    rw [hsplit, hport, decodeOfEncode P i [] hw hP] at hdecode
    have hdrop : rest ++ (encode P i).drop n = [] := by
      injection hdecode with hpair
      exact (congrArg Prod.snd hpair).symm
    exact absurd (List.drop_eq_nil_iff.mp (List.append_eq_nil_iff.mp hdrop).2) (Nat.not_le.mpr hn)

/-- Settles O4: the selectors of the table are 0x01 to 0x12, and no encoding begins another. -/
theorem illegalHostBytesSpellNothing : Obligations.IllegalHostBytesSpellNothing := by
  refine ⟨fun P sel args h => ?_, fun P i n hp hw hn => ?_⟩
  · rw [decode, decodeHost_cons]
    refine dispatch_of_not_mem fun hmem => ?_
    obtain ⟨hlo, hhi⟩ := hostTable_keys_range sel hmem
    obtain rfl | h := h
    · exact absurd hlo (by decide)
    · omega
  · exact hp ▸ decode_take_encode hw (.inl hp) hn

/-- Settles O3: each word is decoded by computation, under the default parameters. -/
theorem writtenOutWordsDecode : Obligations.WrittenOutWordsDecode :=
  ⟨rfl, rfl, rfl, rfl, rfl, rfl, rfl, rfl, rfl, rfl, rfl⟩

end Sys2Proof
end

section
/-! SUPPORT. The address byte for any register number (30_encoding.md R82), what a step does with bytes that decode to
nothing (R84, R85, R89, R93, R94; 60_exceptions.md R252), and the forms that are no host operation (R83, R84, R92,
R94). -/

namespace Sys2Proof.Machine

/-! ### The address byte -/

theorem ofNat_shiftLeft_one (n : Nat) : BitVec.ofNat 8 (n <<< 1) = BitVec.ofNat 8 n <<< 1 := by
  apply BitVec.eq_of_toNat_eq
  rw [BitVec.toNat_shiftLeft, BitVec.toNat_ofNat, BitVec.toNat_ofNat, Nat.shiftLeft_eq, Nat.shiftLeft_eq]
  omega

/-- The formula of R82 on natural numbers. -/
theorem addrByte_ofNat (n : Nat) (isRead : Bool) : addrByte (BitVec.ofNat 8 n) isRead =
    BitVec.ofNat 8 (((n <<< 1) &&& 0x7E) ||| (if isRead then 0x80 else 0x00)) := by
  rw [BitVec.ofNat_or, BitVec.ofNat_and, ofNat_shiftLeft_one]
  cases isRead <;> rfl

/-- A register number is taken mod 64. -/
theorem regAddr_ofNat (n : Nat) : regAddr (BitVec.ofNat 8 n) = BitVec.ofNat 6 n :=
  BitVec.setWidth_ofNat_of_le (by decide) n

/-- Bits 6 to 1 of the address byte are the address. -/
theorem busAddrByte_bit_succ (isRead : Bool) (a : RegAddr) {k : Nat} (h : k < 6) :
    (busAddrByte isRead a).getLsbD (k + 1) = a.getLsbD k :=
  BitVec.getLsbD_append.trans (BitVec.getLsbD_append.trans (if_pos h))

/-- Settles O5, by R82's table of the address byte, `busAddrByte`. -/
theorem addressByteAssembly : Obligations.AddressByteAssembly := by
  refine ⟨addrByte_ofNat, fun n isRead => ?_, fun n isRead => ?_, rfl, rfl, rfl, rfl, rfl⟩
  · rw [addrByte_eq, regAddr_ofNat]
    refine ⟨busAddrByte_bit_seven isRead _, fun k hk => ?_, busAddrByte_bit_zero isRead _⟩
    rw [busAddrByte_bit_succ isRead _ hk, BitVec.getLsbD_ofNat, decide_eq_true hk, Bool.true_and]
  · have h64 : BitVec.ofNat 6 (n + 64) = BitVec.ofNat 6 n := by
      rw [BitVec.ofNat_add]
      exact BitVec.add_zero _
    rw [addrByte_eq, addrByte_eq, regAddr_ofNat, regAddr_ofNat, h64]

/-! ### Steps on bytes that decode to nothing -/

section
variable {s : State} {p : Port} {bs : List Byte} {rest : List Presented} {e : DecodeError}

theorem step_of_illegal (h : s.pending = .bytes .host bs :: rest) (hd : decode s.params .host bs = .error e) :
    step s = .next ((s.withPending (requeue .host (afterIllegal e bs) rest)).refuse .illegalOperation) := by
  simp only [step, fetch, h, hd]
  rfl

theorem step_of_reserved (hp : p ≠ .host) (h : s.pending = .bytes p bs :: rest)
    (hd : decode s.params p bs = .error e) : step s = .refused (.reservedEncoding p) := by
  simp only [step, fetch, h, hd]
  cases p with
  | host => exact absurd rfl hp
  | bus | chipCommand | cardFrame => rfl

end

/-- Only of the bytes after an unknown selector is anything left (log entry 6). -/
theorem afterIllegal_of_ne {e : DecodeError} (h : ¬∃ b, e = .unknownSelector b) (bs : List Byte) :
    afterIllegal e bs = [] := by
  cases e with
  | unknownSelector b => exact absurd ⟨b, rfl⟩ h
  | _ => rfl

/-- Settles O7: the step is a refusal, and what is left presented is what `afterIllegal` leaves. -/
theorem stepRefusesIllegalHostBytes : Obligations.StepRefusesIllegalHostBytes := by
  refine fun s bs rest e h hd => ⟨_, step_of_illegal h hd, ?_, fun hleft => ?_⟩
  · rintro ⟨⟨b, rfl⟩, hne⟩
    exact (requeue_eq _ _ _).trans (if_neg hne)
  · refine (requeue_eq _ _ _).trans (if_pos ?_)
    by_cases hb : ∃ b, e = .unknownSelector b
    · obtain ⟨b, rfl⟩ := hb
      exact hleft.resolve_left (not_not.mpr ⟨b, rfl⟩)
    · exact afterIllegal_of_ne hb bs

/-- Settles O9, by what is presented: nothing, an instruction, bytes that decode, illegal host bytes, reserved bytes. -/
theorem stepStopsOnlyOnReservedBytes : Obligations.StepStopsOnlyOnReservedBytes := by
  intro s
  cases h : s.pending with
  | nil => exact .inl ⟨s, step_of_nil h⟩
  | cons q rest =>
    cases q with
    | term i =>
      rw [step_of_term h]
      exact .inl (exec_next i _)
    | bytes p bs =>
      cases hd : decode s.params p bs with
      | ok r =>
        rw [step_of_bytes h hd]
        exact .inl (exec_next r.1 _)
      | error e =>
        by_cases hp : p = .host
        · subst hp
          exact .inl ⟨_, step_of_illegal h hd⟩
        · exact .inr ⟨p, bs, rest, e, rfl, hp, hd, step_of_reserved hp h hd⟩

/-- Settles O10: `step_of_reserved`, and for each kind of bytes the branch of the decoder or the missing row of its
table. -/
theorem reservedBytesStopTheStep : Obligations.ReservedBytesStopTheStep := by
  refine ⟨fun s p bs rest e hp h hd => step_of_reserved hp h hd, fun P c bs hc => ?_, fun P c v bs h0 => if_pos h0,
    fun P c v bs h0 h7 hv => ?_, fun P c bs h1 h2 => ?_, fun P c c2 bs h1 h2 h => ?_, fun P i n _ hw hP hn =>
    decode_take_encode hw (.inr (.inr hP)) hn⟩
  · exact dispatch_of_not_mem (table := commandTable P) hc
  · rw [decode, decodeBus, h0, h7, if_neg Bool.false_ne_true, if_pos rfl, if_neg hv]
  · rw [decode, decodeFrame_cons, dispatch_of_not_mem (table := frameTable P) h1, if_neg h2]
  · rw [decode, decodeFrame_cons, dispatch_of_not_mem (table := frameTable P) h1, if_pos h2, decodeTwoByteHeader_cons]
    exact dispatch_of_not_mem (table := headerTable P) h

/-! ### The forms that are no host operation -/

/-- Settles O40: each form is one bus operation. -/
theorem busFormsPerformOneTransaction : Obligations.BusFormsPerformOneTransaction :=
  ⟨fun a v s => ⟨_, rfl, s.bus.write_performed s.params a v, rfl⟩,
    fun a s => ⟨_, _, rfl, s.bus.read_performed s.params a, rfl⟩⟩

/-- Settles O41: each row of the list is a byte issued to `Command`. -/
theorem chipCommandsAreWrittenToCommand : Obligations.ChipCommandsAreWrittenToCommand := by
  intro s i code hmem
  have hexec : exec i s = .next (s.issueCommand code) := by
    simp only [List.mem_cons, Prod.mk.injEq, List.not_mem_nil, or_false] at hmem
    obtain ⟨rfl, rfl⟩ | ⟨rfl, rfl⟩ | ⟨rfl, rfl⟩ | ⟨rfl, rfl⟩ | ⟨rfl, rfl⟩ | ⟨rfl, rfl⟩ | ⟨rfl, rfl⟩ := hmem <;> rfl
  exact ⟨_, hexec, s.bus.write_performed s.params _ code, rfl⟩

/-- Settles O42: a frame presented by itself is loaded as it is encoded. -/
theorem cardFramesAreLoadedIntoTheFifo : Obligations.CardFramesAreLoadedIntoTheFifo :=
  fun i s hp => ⟨_, exec_of_cardFrame hp s, s.bus.load_performed s.params _ (encode s.params i), rfl⟩

end Sys2Proof.Machine
end

section
/-! SUPPORT. Which host operations are refused and which are answered, said once (60_exceptions.md R251, R252), and the
engine's invariant across a step. -/

namespace Sys2Proof.Machine

/-! ### Refused or answered -/

/-- From `s` to `t` one result was returned that is no refusal, and `S.refused` was left. -/
def Answered (s t : State) : Prop :=
  t.refused = s.refused ∧ ∃ r, t.results = s.results ++ [r] ∧ ∀ e, r ≠ .refused e

@[simp] theorem State.exchangeWithCrc_refused (f : List Byte) (s : State) :
    (s.exchangeWithCrc f).2.refused = s.refused := rfl

@[simp] theorem State.exchangeWithCrc_results (f : List Byte) (s : State) :
    (s.exchangeWithCrc f).2.results = s.results := rfl

section
variable {s t u : State}

/-- To complete with a result that is no refusal, having refused and returned nothing before, is to answer. -/
theorem State.complete_answered {r : Result} (hu : u.refused = s.refused) (hres : u.results = s.results)
    (hr : ∀ e, r ≠ .refused e) : Answered s (u.complete r) :=
  ⟨hu, r, by rw [State.complete_results, hres], hr⟩

/-- An operation whose length check fails is refused for the reason the check gives. -/
theorem next_refuse_of_check {ok : Bool} {e e' : RefusalReason} (h : (if ok then none else some e) = some e')
    (accepted : State) : (.next (if ok then accepted else s.refuse e) : Host.Outcome State Fault Refusal) =
      .next (s.refuse e') := by
  cases ok with
  | true => cases h
  | false => cases h; rfl

/-- An operation whose length check succeeds is carried out. -/
theorem accepted_of_check {ok : Bool} {e : RefusalReason} (h : (if ok then none else some e) = none)
    (hx : (.next (if ok then u else s.refuse e) : Host.Outcome State Fault Refusal) = .next t) : t = u := by
  cases ok with
  | true => cases hx; rfl
  | false => cases h

/-- A wrong length is refused (R252). -/
theorem exec_of_refusalOf_some {i : Instr} {e : RefusalReason} (h : refusalOf s.params i = some e) :
    exec i s = .next (s.refuse e) := by
  cases i with
  | crc d => exact next_refuse_of_check ((refusalOf_crc _ d).symm.trans h) _
  | transceive d => exact next_refuse_of_check ((refusalOf_transceive _ d).symm.trans h) _
  | select u => exact next_refuse_of_check ((refusalOf_select _ u).symm.trans h) _
  | auth mode blk key uid => exact next_refuse_of_check ((refusalOf_auth _ mode blk key uid).symm.trans h) _
  | write blk d => exact next_refuse_of_check ((refusalOf_write _ blk d).symm.trans h) _
  | _ => cases h

theorem execReaduid_answered (h : execReaduid s = .next t) : Answered s t := by
  obtain ⟨b, ⟨atqa, hr⟩ | hr⟩ := s.begin.request_cases s.params.picc.reqidl <;> rw [execReaduid, hr] at h
  · obtain ⟨c, ⟨u, ha⟩ | ha⟩ := State.anticoll_cases { s.begin with bus := b, phase := .requested } <;>
      simp only [ha] at h <;> cases h <;> exact State.complete_answered rfl rfl nofun
  · cases h
    exact State.complete_answered rfl rfl nofun

/-- A host operation whose lengths are not refused is answered (R251). -/
theorem exec_answered {i : Instr} (hp : i.port = .host) (href : refusalOf s.params i = none)
    (h : exec i s = .next t) : Answered s t := by
  cases i with
  | wreg | rreg | setbits | clrbits | anton | antoff | stopcrypto | halt | init =>
    cases h
    exact State.complete_answered rfl rfl nofun
  | crc d =>
    obtain rfl := accepted_of_check ((refusalOf_crc _ d).symm.trans href) h
    exact State.complete_answered rfl rfl nofun
  | transceive d =>
    obtain rfl := accepted_of_check ((refusalOf_transceive _ d).symm.trans href) h
    exact State.complete_answered rfl rfl nofun
  | request mode =>
    obtain ⟨b, ⟨atqa, hr⟩ | hr⟩ := s.begin.request_cases mode <;> rw [exec, execRequest, hr] at h <;> cases h <;>
      exact State.complete_answered rfl rfl nofun
  | anticoll =>
    obtain ⟨b, ⟨u, hr⟩ | hr⟩ := s.begin.anticoll_cases <;> rw [exec, execAnticoll, hr] at h <;> cases h <;>
      exact State.complete_answered rfl rfl nofun
  | select u =>
    obtain rfl := accepted_of_check ((refusalOf_select _ u).symm.trans href) h
    dsimp only
    split <;> exact State.complete_answered (by simp) (by simp) nofun
  | auth mode blk key uid =>
    obtain rfl := accepted_of_check ((refusalOf_auth _ mode blk key uid).symm.trans href) h
    dsimp only
    split <;> exact State.complete_answered rfl rfl nofun
  | read blk =>
    cases h
    refine State.complete_answered (by simp) (by simp) ?_
    split <;> exact nofun
  | write blk d =>
    obtain rfl := accepted_of_check ((refusalOf_write _ blk d).symm.trans href) h
    dsimp only
    split
    · refine State.complete_answered (by simp) (by simp) ?_
      split <;> exact nofun
    · exact State.complete_answered (by simp) (by simp) nofun
  | readuid => exact execReaduid_answered h
  | _ => cases hp

end

/-! ### The invariant -/

/-- An operation that completes in the phase `Authenticated` has a confirmed session (10_state.md R22, R25). -/
theorem PhaseEdge.session {i : Instr} {r : Result} {p : Phase} {a : Bool} (h : PhaseEdge i r p .authenticated)
    (hr : ∀ e, r ≠ .refused e) (ha : p = .authenticated → a = true) :
    authenticatedAfter i (r = .authOk) a = true := by
  unfold PhaseEdge at h
  split at h
  case h_1 => exact absurd rfl (hr _)
  case h_8 => rfl
  case h_9 =>
    split at h
    · cases h
    · exact absurd h.symm ‹_›
  case h_14 hinit _ _ hstop _ _ _ _ _ _ _ _ _ =>
    have hsession : a = true := ha h.symm
    cases i with
    | init => exact (hinit rfl).elim
    | stopcrypto => exact (hstop rfl).elim
    | auth => exact hsession ▸ Bool.or_true _
    | _ => exact hsession
  all_goals simp at h

/-- Every host operation but INIT breaks a duty before INIT (70_reset_and_hazards.md R282). -/
theorem dutyBroken_of_uninitialised {i : Instr} {s : State} (hi : i ≠ .init) (h : s.initialised = false) :
    dutyBroken i s = true := by
  unfold dutyBroken
  split <;> simp_all

/-- A list of results grows by a refusal or by something else. -/
theorem refused_mem_append {r : Result} {rs : List Result} :
    (∃ e, Result.refused e ∈ rs ++ [r]) ↔ (∃ e, Result.refused e ∈ rs) ∨ ∃ e, r = .refused e := by
  simp only [List.mem_append, List.mem_singleton, exists_or, eq_comm]

section
variable {s t : State}

theorem EngineInv.withPending (h : EngineInv s) (ps : List Presented) : EngineInv (s.withPending ps) :=
  { h with }

theorem EngineInv.wire_of_performed {b : Bus} {ts : List Transaction} (h : EngineInv s)
    (hp : Performed s.params s.bus ts b) : b.wire = b.trace.flatMap (Transaction.wireEvents s.params) := by
  rw [hp.wire, hp.trace, h.wire, List.flatMap_append]

/-- A refusal keeps the invariant: it sets the mark and returns the refusal (R252). -/
theorem EngineInv.refuse (h : EngineInv s) (e : RefusalReason) : EngineInv (s.refuse e) :=
  { h with
    counted := by rw [State.refuse_results, State.refuse_opIndex, List.length_append, h.counted, List.length_singleton]
    uninitialised := fun _ _ => .inr rfl
    refusals := ⟨fun _ => ⟨e, List.mem_append_right _ (List.mem_singleton_self _)⟩, fun _ => rfl⟩ }

/-- An answered host operation keeps the invariant. -/
theorem exec_engineInv_of_answered {i : Instr} (h : EngineInv s) (hp : i.port = .host)
    (href : refusalOf s.params i = none) (hx : exec i s = .next t) : EngineInv t := by
  obtain ⟨ts, hbus, -⟩ := exec_atMost hx
  obtain ⟨r, hs⟩ := exec_hostStep hp hx
  obtain ⟨hrefused, r', hresults, hr⟩ := exec_answered hp href hx
  obtain rfl : r = r' := by simpa using hs.results.symm.trans hresults
  exact
    { wire := hs.params ▸ h.wire_of_performed hbus
      counted := by rw [hs.results, hs.opIndex, List.length_append, h.counted, List.length_singleton]
      session := fun hphase => hs.authenticated.trans ((hphase ▸ hs.phase).session hr h.session)
      uninitialised := fun hinit _ => .inl (by
        have hi : i ≠ .init := by
          rintro rfl
          cases hx
          cases hinit
        have hs' : s.initialised = false := Bool.eq_false_iff.mpr fun hs' =>
          Bool.false_ne_true (hinit.symm.trans (hs.initialised hs'))
        rw [hs.hostDuty, dutyMarked_of_refusalOf_none hp href, dutyBroken_of_uninitialised hi hs', Bool.or_true])
      refusals := by
        rw [hrefused, hresults, refused_mem_append, h.refusals, or_iff_left]
        exact fun ⟨e, he⟩ => hr e he
      parameters := hs.params ▸ h.parameters }

/-- Every instruction keeps the invariant. -/
theorem exec_engineInv {i : Instr} (h : EngineInv s) (hx : exec i s = .next t) : EngineInv t := by
  by_cases hp : i.port = .host
  · cases href : refusalOf s.params i with
    | none => exact exec_engineInv_of_answered h hp href hx
    | some e =>
      rw [exec_of_refusalOf_some href] at hx
      cases hx
      exact h.refuse e
  · obtain ⟨ts, hbus, -⟩ := exec_atMost hx
    rw [exec_of_port_ne_host hp hx]
    exact { h with wire := h.wire_of_performed hbus }

end

/-- Settles O56: what a step takes from `S.pending` the invariant does not speak of, and then `exec` or `refuse` keeps
it. -/
theorem stepKeepsTheEngineInvariant : Obligations.StepKeepsTheEngineInvariant := by
  intro s t h hstep
  obtain rfl | ⟨ps, ⟨i, hx⟩ | rfl⟩ := step_next_cases hstep
  · exact h
  · exact exec_engineInv (h.withPending ps) hx
  · exact (h.withPending ps).refuse .illegalOperation

end Sys2Proof.Machine
end

section
/-! SUPPORT. Which transactions each instruction performs, said once (`InstrRun`), and from this which codes are written
to `Command` (30_encoding.md R92, R93). -/

namespace Sys2Proof.Machine

/-! ### The transactions of an instruction -/

/-- The transactions of an instruction that is not refused. -/
def InstrRun (P : Params) (i : Instr) (ts : List Transaction) : Prop :=
  match i with
  | .wreg a v => ts = [.write (regAddr a) v]
  | .rreg a => ∃ v, ts = [.read (regAddr a) v]
  | .setbits a m => ∃ v, ts = setRun (regAddr a) m v
  | .clrbits a m => ∃ v, ts = clearRun (regAddr a) m v
  | .anton => AntennaOnRun P ts
  | .antoff => ∃ v, ts = clearRun P.reg.txControl Mask.antenna v
  | .crc d => ∃ lo hi seen, CrcRun P d ts lo hi seen
  | .transceive d => ∃ r, ExchangeRun P .transceive d ts r
  | .request mode => ∃ r, RequestRun P mode ts r
  | .anticoll => ∃ r, AnticollRun P ts r
  | .select u => ∃ r seen, FrameRun P (selectFrame P u) ts r seen
  | .auth mode blk key uid => ∃ xch r v, ExchangeRun P .mfAuthent (authFrame mode blk key uid) xch r ∧
      ts = xch ++ [.read P.reg.status2 v]
  | .stopcrypto => ∃ v, ts = clearRun P.reg.status2 P.mask.crypto1On v
  | .read blk => ∃ r seen, FrameRun P (readFrame P blk) ts r seen
  | .write blk d => ∃ us r seen, FrameRun P (writeFrame P blk) us r seen ∧
      (ts = us ∨ ∃ vs r' seen', FrameRun P d vs r' seen' ∧ ts = us ++ vs)
  | .halt => ∃ r seen, FrameRun P (haltFrame P) ts r seen
  | .readuid => ∃ us r, RequestRun P P.picc.reqidl us r ∧ (ts = us ∨ ∃ vs r', AnticollRun P vs r' ∧ ts = us ++ vs)
  | .init => InitRun P ts
  | .busW a v => ts = [.write a v]
  | .busR a => ∃ v, ts = [.read a v]
  | .pcdIdle | .pcdCalcCRC | .pcdTransmit | .pcdReceive | .pcdTransceive | .pcdMFAuthent | .pcdSoftReset =>
    ts = [.write P.reg.command ((encode P i).headD 0)]
  | .piccReqidl | .piccReqall | .piccAnticoll | .piccSelect _ _ _ | .piccAuth1a _ _ _ | .piccAuth1b _ _ _
  | .piccRead _ _ _ | .piccWrite _ _ _ | .piccDecrement | .piccIncrement | .piccRestore | .piccTransfer
  | .piccHalt _ _ => ts = (encode P i).map (.write P.reg.fifoData)

theorem State.exchangeWithCrc_run (f : List Byte) (s : State) : ∃ ts r seen, FrameRun s.params f ts r seen ∧
    Performed s.params s.bus ts (s.exchangeWithCrc f).2.bus := by
  obtain ⟨ts, b, r, seen, hrun, hp, h⟩ := s.exchangeWithCrc_spec f
  exact ⟨ts, r, seen, hrun, h ▸ hp⟩

theorem State.request_run (mode : Byte) (s : State) : ∃ ts r, RequestRun s.params mode ts r ∧
    Performed s.params s.bus ts (s.request mode).2.bus := by
  obtain ⟨ts, r, b, hrun, hp, h⟩ := s.request_spec mode
  refine ⟨ts, r, hrun, ?_⟩
  rw [h]
  split <;> exact hp

theorem State.anticoll_run (s : State) : ∃ ts r, AnticollRun s.params ts r ∧
    Performed s.params s.bus ts s.anticoll.2.bus := by
  obtain ⟨ts, r, b, hrun, hp, h⟩ := s.anticoll_spec
  refine ⟨ts, r, hrun, ?_⟩
  rw [h]
  split <;> exact hp

section
variable {s t : State}

theorem execReaduid_run (h : execReaduid s = .next t) :
    ∃ ts, Performed s.params s.bus ts t.bus ∧ InstrRun s.params .readuid ts := by
  cases h
  obtain ⟨us, r, hrun, hp⟩ := s.begin.request_run s.params.picc.reqidl
  obtain ⟨vs, r', hrun', hp'⟩ := (s.begin.request s.params.picc.reqidl).2.anticoll_run
  rw [State.request_params] at hrun' hp'
  dsimp only
  split
  · exact ⟨us, hp, us, r, hrun, .inl rfl⟩
  · split <;> exact ⟨us ++ vs, hp.append hp', us, r, hrun, .inr ⟨vs, r', hrun', rfl⟩⟩

theorem execWrite_run {blk : Byte} {d : List Byte} (href : refusalOf s.params (.write blk d) = none)
    (h : execWrite blk d s = .next t) :
    ∃ ts, Performed s.params s.bus ts t.bus ∧ InstrRun s.params (.write blk d) ts := by
  obtain rfl := accepted_of_check ((refusalOf_write _ blk d).symm.trans href) h
  obtain ⟨us, r, seen, hrun, hp⟩ :=
    (s.begin.markHostDuty (!s.authenticated)).exchangeWithCrc_run (writeFrame s.params blk)
  obtain ⟨vs, r', seen', hrun', hp'⟩ := State.exchangeWithCrc_run d
    ((s.begin.markHostDuty (!s.authenticated)).exchangeWithCrc (writeFrame s.params blk)).2
  dsimp only
  split
  · exact ⟨us ++ vs, hp.append hp', us, r, seen, hrun, .inr ⟨vs, r', seen', hrun', rfl⟩⟩
  · exact ⟨us, hp, us, r, seen, hrun, .inl rfl⟩

/-- An instruction that is not refused performs its transactions. -/
theorem exec_run {i : Instr} (href : refusalOf s.params i = none) (h : exec i s = .next t) :
    ∃ ts, Performed s.params s.bus ts t.bus ∧ InstrRun s.params i ts := by
  cases i with
  | wreg a v => cases h; exact ⟨_, s.bus.write_performed _ _ v, rfl⟩
  | rreg a => cases h; exact ⟨_, s.bus.read_performed _ _, _, rfl⟩
  | setbits a m =>
    cases h
    obtain ⟨v, hp⟩ := s.bus.setBits_performed s.params (regAddr a) m
    exact ⟨_, hp, v, rfl⟩
  | clrbits a m =>
    cases h
    obtain ⟨v, hp⟩ := s.bus.clearBits_performed s.params (regAddr a) m
    exact ⟨_, hp, v, rfl⟩
  | anton =>
    cases h
    obtain ⟨ts, hrun, hp⟩ := s.bus.antennaOn_performed s.params
    exact ⟨ts, hp, hrun⟩
  | antoff =>
    cases h
    obtain ⟨v, hp⟩ := s.bus.clearBits_performed s.params s.params.reg.txControl Mask.antenna
    exact ⟨_, hp, v, rfl⟩
  | crc d =>
    obtain rfl := accepted_of_check ((refusalOf_crc _ d).symm.trans href) h
    obtain ⟨ts, hrun, hp⟩ := s.bus.calculateCrc_performed s.params d
    exact ⟨ts, hp, _, _, _, hrun⟩
  | transceive d =>
    obtain rfl := accepted_of_check ((refusalOf_transceive _ d).symm.trans href) h
    obtain ⟨ts, hrun, hp⟩ := s.bus.pcdExchange_performed s.params .transceive d
    exact ⟨ts, hp, _, hrun⟩
  | request mode =>
    cases h
    obtain ⟨ts, r, hrun, hp⟩ := s.begin.request_run mode
    dsimp only
    split <;> exact ⟨ts, hp, r, hrun⟩
  | anticoll =>
    cases h
    obtain ⟨ts, r, hrun, hp⟩ := s.begin.anticoll_run
    dsimp only
    split <;> exact ⟨ts, hp, r, hrun⟩
  | select u =>
    obtain rfl := accepted_of_check ((refusalOf_select _ u).symm.trans href) h
    obtain ⟨ts, r, seen, hrun, hp⟩ := (s.begin.markHostDuty (uidBroken u)).exchangeWithCrc_run (selectFrame s.params u)
    dsimp only
    split <;> exact ⟨ts, hp, r, seen, hrun⟩
  | auth mode blk key uid =>
    obtain rfl := accepted_of_check ((refusalOf_auth _ mode blk key uid).symm.trans href) h
    obtain ⟨xch, hrun, hp⟩ := s.bus.pcdExchange_performed s.params .mfAuthent (authFrame mode blk key uid)
    have hp' := hp.append (Bus.read_performed s.params s.params.reg.status2 _)
    dsimp only
    split <;> exact ⟨_, hp', xch, _, _, hrun, rfl⟩
  | stopcrypto =>
    cases h
    obtain ⟨v, hp⟩ := s.bus.clearBits_performed s.params s.params.reg.status2 s.params.mask.crypto1On
    exact ⟨_, hp, v, rfl⟩
  | read blk =>
    cases h
    obtain ⟨ts, r, seen, hrun, hp⟩ :=
      (s.begin.markHostDuty (!s.authenticated)).exchangeWithCrc_run (readFrame s.params blk)
    exact ⟨ts, hp, r, seen, hrun⟩
  | write blk d => exact execWrite_run href h
  | halt =>
    cases h
    obtain ⟨ts, r, seen, hrun, hp⟩ := s.begin.exchangeWithCrc_run (haltFrame s.params)
    exact ⟨ts, hp, r, seen, hrun⟩
  | readuid => exact execReaduid_run h
  | init =>
    cases h
    obtain ⟨ant, hrun, hp⟩ := Bus.antennaOn_performed s.params
      ((s.bus.write s.params.reg.command s.params.cmd.softReset).writePairs s.params.initSequence)
    exact ⟨_, ((Bus.write_performed _ _ _ _).append (Bus.writePairs_performed _ _ _)).append hp, ant, hrun, rfl⟩
  | busW a v => cases h; exact ⟨_, s.bus.write_performed _ a v, rfl⟩
  | busR a => cases h; exact ⟨_, s.bus.read_performed _ a, _, rfl⟩
  | pcdIdle | pcdCalcCRC | pcdTransmit | pcdReceive | pcdTransceive | pcdMFAuthent | pcdSoftReset =>
    rw [exec_of_chipCommand rfl] at h
    cases h
    exact ⟨_, s.bus.write_performed _ _ _, rfl⟩
  | piccReqidl | piccReqall | piccAnticoll | piccSelect | piccAuth1a | piccAuth1b | piccRead | piccWrite | piccDecrement
  | piccIncrement | piccRestore | piccTransfer | piccHalt =>
    rw [exec_of_cardFrame rfl] at h
    cases h
    exact ⟨_, s.bus.load_performed _ _ _, rfl⟩

/-- A refused instruction performs nothing (60_exceptions.md R252), any other its transactions. -/
theorem exec_run_cases {i : Instr} (h : exec i s = .next t) :
    ∃ ts, Performed s.params s.bus ts t.bus ∧ (ts = [] ∨ InstrRun s.params i ts) := by
  cases href : refusalOf s.params i with
  | some e =>
    rw [exec_of_refusalOf_some href] at h
    cases h
    exact ⟨[], Performed.nil _ _, .inl rfl⟩
  | none =>
    obtain ⟨ts, hp, hrun⟩ := exec_run href h
    exact ⟨ts, hp, .inr hrun⟩

end

/-! ### The codes written to `Command` -/

/-- Every byte these transactions write to `Command` is one of `codes`. -/
def CommandWritesIn (P : Params) (codes : List Byte) (ts : List Transaction) : Prop :=
  ∀ v, Transaction.write P.reg.command v ∈ ts → v ∈ codes

section
variable {P : Params} {codes : List Byte} {ts us : List Transaction} {a : RegAddr} {v : Byte}

@[simp] theorem commandWritesIn_nil : CommandWritesIn P codes [] := nofun

@[simp] theorem commandWritesIn_append :
    CommandWritesIn P codes (ts ++ us) ↔ CommandWritesIn P codes ts ∧ CommandWritesIn P codes us := by
  simp only [CommandWritesIn, List.mem_append, or_imp, forall_and]

@[simp] theorem commandWritesIn_read_cons :
    CommandWritesIn P codes (.read a v :: ts) ↔ CommandWritesIn P codes ts := by
  simp [CommandWritesIn]

@[simp] theorem commandWritesIn_command_cons :
    CommandWritesIn P codes (.write P.reg.command v :: ts) ↔ v ∈ codes ∧ CommandWritesIn P codes ts := by
  simp [CommandWritesIn]

theorem commandWritesIn_write_cons (h : P.reg.command ≠ a) :
    CommandWritesIn P codes (.write a v :: ts) ↔ CommandWritesIn P codes ts := by
  simp [CommandWritesIn, h]

@[simp] theorem commandWritesIn_map_read (d : List Byte) : CommandWritesIn P codes (d.map (.read a)) := by
  simp [CommandWritesIn]

theorem commandWritesIn_map_write (h : P.reg.command ≠ a) (d : List Byte) :
    CommandWritesIn P codes (d.map (.write a)) := by
  simp [CommandWritesIn, h.symm]

theorem commandWritesIn_clearRun (h : P.reg.command ≠ a) (m v : Byte) :
    CommandWritesIn P codes (clearRun a m v) := by
  simp [clearRun, commandWritesIn_write_cons h]

theorem commandWritesIn_setRun (h : P.reg.command ≠ a) (m v : Byte) : CommandWritesIn P codes (setRun a m v) := by
  simp [setRun, commandWritesIn_write_cons h]

end

/-- The codes that host operations write to `Command` (R92): `Transmit` and `Receive` are not among them (R93). -/
def hostCommands (c : ChipCodes) : List Byte := [c.idle, c.calcCrc, c.transceive, c.mfAuthent, c.softReset]

theorem hostCommands_subset (c : ChipCodes) : hostCommands c ⊆ c.codes := by
  simp [hostCommands, ChipCodes.codes]

/-- Where the codes differ (R92), `Transmit` and `Receive` are not written by host operations. -/
theorem ne_of_mem_hostCommands {c : ChipCodes} (hc : c.codes.Nodup) {v : Byte} (hv : v ∈ hostCommands c) :
    v ≠ c.transmit ∧ v ≠ c.receive := by
  simp only [ChipCodes.codes, List.nodup_cons, List.mem_cons, not_or] at hc
  simp only [hostCommands, List.mem_cons, List.not_mem_nil, or_false] at hv
  grind

section
variable {P : Params} {codes : List Byte} {ts : List Transaction}

/-- After its poll an exchange only reads. -/
theorem ExchangeEnd.commandWritesIn {cmd : ExchangeCommand} {seen : Bool} {irq : Byte} {r : TransceiveResult}
    (h : ExchangeEnd P cmd seen irq ts r) : CommandWritesIn P codes ts := by
  unfold ExchangeEnd at h
  split at h
  · simp [h.1]
  obtain ⟨e, h⟩ := h
  split at h
  · simp [h.1]
  split at h
  · obtain ⟨l, c, data, rfl, -⟩ := h
    simp
  · simp [h.1]

variable (hP : P.legal = true)
include hP

/-- Where the registers differ (10_state.md R30), `Command` is none of the others. -/
theorem command_ne {a : RegAddr} (ha : a ∈ P.reg.addresses.tail) : P.reg.command ≠ a := by
  obtain ⟨hregs, -⟩ := P.legal_iff.mp hP
  rintro rfl
  exact (List.nodup_cons.mp hregs).1 ha

theorem CrcRun.commandWritesIn {d : List Byte} {lo hi : Byte} {seen : Bool} (h : CrcRun P d ts lo hi seen) :
    CommandWritesIn P (hostCommands P.cmd) ts := by
  obtain ⟨v0, v1, polls, -, rfl⟩ := h
  have hirq : P.reg.command ≠ P.reg.divIrq := command_ne hP (by simp [RegMap.addresses])
  have hlevel : P.reg.command ≠ P.reg.fifoLevel := command_ne hP (by simp [RegMap.addresses])
  have hdata : P.reg.command ≠ P.reg.fifoData := command_ne hP (by simp [RegMap.addresses])
  simp [commandWritesIn_clearRun hirq, commandWritesIn_setRun hlevel, commandWritesIn_map_write hdata, hostCommands]

theorem ExchangeRun.commandWritesIn {cmd : ExchangeCommand} {d : List Byte} {r : TransceiveResult}
    (h : ExchangeRun P cmd d ts r) : CommandWritesIn P (hostCommands P.cmd) ts := by
  obtain ⟨polls, v0, v1, v3, start, tail, seen, hxcv, hauth, -, hend, rfl⟩ := h
  have hen : P.reg.command ≠ P.reg.comIEn := command_ne hP (by simp [RegMap.addresses])
  have hirq : P.reg.command ≠ P.reg.comIrq := command_ne hP (by simp [RegMap.addresses])
  have hlevel : P.reg.command ≠ P.reg.fifoLevel := command_ne hP (by simp [RegMap.addresses])
  have hdata : P.reg.command ≠ P.reg.fifoData := command_ne hP (by simp [RegMap.addresses])
  have hframing : P.reg.command ≠ P.reg.bitFraming := command_ne hP (by simp [RegMap.addresses])
  have hstart : CommandWritesIn P (hostCommands P.cmd) start := by
    cases cmd with
    | transceive => obtain ⟨v2, rfl⟩ := hxcv rfl; exact commandWritesIn_setRun hframing _ _
    | mfAuthent => simp [hauth rfl]
  have hcode : (if cmd = .transceive then P.cmd.transceive else P.cmd.mfAuthent) ∈ hostCommands P.cmd := by
    split <;> simp [hostCommands]
  have hidle : P.cmd.idle ∈ hostCommands P.cmd := List.mem_cons_self
  simp [commandWritesIn_write_cons hen, commandWritesIn_clearRun hirq, commandWritesIn_setRun hlevel,
    commandWritesIn_map_write hdata, commandWritesIn_clearRun hframing, hstart, hcode, hidle, hend.commandWritesIn]

theorem FrameRun.commandWritesIn {f : List Byte} {r : TransceiveResult} {seen : Bool} (h : FrameRun P f ts r seen) :
    CommandWritesIn P (hostCommands P.cmd) ts := by
  obtain ⟨lo, hi, crc, xch, hcrc, hxch, rfl⟩ := h
  exact commandWritesIn_append.mpr ⟨hcrc.commandWritesIn hP, hxch.commandWritesIn hP⟩

theorem RequestRun.commandWritesIn {mode : Byte} {r : TransceiveResult} (h : RequestRun P mode ts r) :
    CommandWritesIn P (hostCommands P.cmd) ts := by
  obtain ⟨xch, hxch, rfl⟩ := h
  exact (commandWritesIn_write_cons (command_ne hP (by simp [RegMap.addresses]))).mpr (hxch.commandWritesIn hP)

theorem AnticollRun.commandWritesIn {r : TransceiveResult} (h : AnticollRun P ts r) :
    CommandWritesIn P (hostCommands P.cmd) ts := by
  obtain ⟨xch, hxch, rfl⟩ := h
  exact (commandWritesIn_write_cons (command_ne hP (by simp [RegMap.addresses]))).mpr (hxch.commandWritesIn hP)

theorem AntennaOnRun.commandWritesIn (h : AntennaOnRun P ts) : CommandWritesIn P codes ts := by
  have htx : P.reg.command ≠ P.reg.txControl := command_ne hP (by simp [RegMap.addresses])
  obtain ⟨v, ⟨-, rfl⟩ | ⟨-, w, rfl⟩⟩ := h
  · simp
  · simp [commandWritesIn_setRun htx]

theorem InitRun.commandWritesIn (h : InitRun P ts) (hseq : ∀ p ∈ P.initSequence, p.1 ≠ P.reg.command) :
    CommandWritesIn P (hostCommands P.cmd) ts := by
  obtain ⟨ant, hant, rfl⟩ := h
  have hpairs : CommandWritesIn P (hostCommands P.cmd) (P.initSequence.map fun p => .write p.1 p.2) := by
    rintro v hv
    obtain ⟨p, hp, heq⟩ := List.mem_map.mp hv
    exact absurd (Transaction.write.inj heq).1 (hseq p hp)
  have hreset : P.cmd.softReset ∈ hostCommands P.cmd := by simp [hostCommands]
  simp [hreset, hpairs, hant.commandWritesIn hP]

/-- A host operation other than the raw register ones writes to `Command` only codes of R92 that are neither `Transmit`
nor `Receive`. -/
theorem InstrRun.commandWritesIn_hostCommands {i : Instr} (hp : i.port = .host) (h : InstrRun P i ts)
    (hraw : ∀ a m, i ≠ .wreg a m ∧ i ≠ .setbits a m ∧ i ≠ .clrbits a m)
    (hseq : i = .init → ∀ p ∈ P.initSequence, p.1 ≠ P.reg.command) :
    CommandWritesIn P (hostCommands P.cmd) ts := by
  cases i with
  | wreg a v => exact absurd rfl (hraw a v).1
  | setbits a m => exact absurd rfl (hraw a m).2.1
  | clrbits a m => exact absurd rfl (hraw a m).2.2
  | rreg => obtain ⟨v, rfl⟩ := h; simp
  | anton => exact AntennaOnRun.commandWritesIn hP h
  | antoff | stopcrypto =>
    obtain ⟨v, rfl⟩ := h
    exact commandWritesIn_clearRun (command_ne hP (by simp [RegMap.addresses])) _ _
  | crc => obtain ⟨lo, hi, seen, h⟩ := h; exact h.commandWritesIn hP
  | transceive => obtain ⟨r, h⟩ := h; exact h.commandWritesIn hP
  | request => obtain ⟨r, h⟩ := h; exact h.commandWritesIn hP
  | anticoll => obtain ⟨r, h⟩ := h; exact h.commandWritesIn hP
  | select | read | halt => obtain ⟨r, seen, h⟩ := h; exact h.commandWritesIn hP
  | auth =>
    obtain ⟨xch, r, v, h, rfl⟩ := h
    simp [h.commandWritesIn hP]
  | write =>
    obtain ⟨us, r, seen, h, rfl | ⟨vs, r', seen', h', rfl⟩⟩ := h
    · exact h.commandWritesIn hP
    · exact commandWritesIn_append.mpr ⟨h.commandWritesIn hP, h'.commandWritesIn hP⟩
  | readuid =>
    obtain ⟨us, r, h, rfl | ⟨vs, r', h', rfl⟩⟩ := h
    · exact h.commandWritesIn hP
    · exact commandWritesIn_append.mpr ⟨h.commandWritesIn hP, h'.commandWritesIn hP⟩
  | init => exact InitRun.commandWritesIn hP h (hseq rfl)
  | _ => cases hp

/-- A chip command code presented by itself writes itself, a card frame and BUS-R write nothing to `Command`. -/
theorem InstrRun.commandWritesIn_codes {i : Instr} (hp : i.port ≠ .host) (h : InstrRun P i ts)
    (hbus : ∀ a v, i ≠ .busW a v) :
    CommandWritesIn P P.cmd.codes ts := by
  cases i with
  | busW a v => exact absurd rfl (hbus a v)
  | busR => obtain ⟨v, rfl⟩ := h; simp
  | pcdIdle | pcdCalcCRC | pcdTransmit | pcdReceive | pcdTransceive | pcdMFAuthent | pcdSoftReset =>
    cases h
    simp [encode, ChipCodes.codes]
  | piccReqidl | piccReqall | piccAnticoll | piccSelect | piccAuth1a | piccAuth1b | piccRead | piccWrite | piccDecrement
  | piccIncrement | piccRestore | piccTransfer | piccHalt =>
    cases h
    exact commandWritesIn_map_write (command_ne hP (by simp [RegMap.addresses])) _
  | _ => exact absurd rfl hp

end

/-- Settles O51: the transactions performed are a run of the instruction, which writes only the codes it names. -/
theorem onlyListedChipCommandsAreWritten : Obligations.OnlyListedChipCommandsAreWritten := by
  intro i s t ts hP h htrace hraw hbus hseq v hv
  obtain ⟨us, hp, hrun⟩ := exec_run_cases h
  obtain rfl : us = ts := List.append_cancel_left (hp.trace.symm.trans htrace)
  obtain rfl | hrun := hrun
  · cases hv
  by_cases hport : i.port = .host
  · have hmem := hrun.commandWritesIn_hostCommands hP hport hraw hseq v hv
    obtain ⟨-, hcodes, -⟩ := s.params.legal_iff.mp hP
    exact ⟨hostCommands_subset _ hmem, fun _ => ne_of_mem_hostCommands hcodes hmem⟩
  · exact ⟨hrun.commandWritesIn_codes hP hport hbus v hv, fun hhost => absurd hhost hport⟩

end Sys2Proof.Machine
end

section
/-! SUPPORT. The RegisterAccess operations (40_register_access.md R120 to R126): what each performs on the bus is the
rule of its bus operation, and what else it changes is `State.after` and its own session fields. -/

namespace Sys2Proof.Machine

/-- An operation that begins, works on the bus and returns `r` leaves `State.after`, with no host duty broken but the
one `S.initialised` tells of (10_state.md R27; 70_reset_and_hazards.md R282). -/
theorem State.begin_onBus_complete (f : Bus → Bus) (r : Result) (s : State) :
    (s.begin.onBus f).complete r = s.after (f s.bus) r false := by
  rw [State.after, Bool.or_false]
  rfl

/-- Settles O12: one bus write. -/
theorem wregPerformsOneWrite : Obligations.WregPerformsOneWrite :=
  fun a v s => ⟨_, rfl, s.bus.write_performed s.params (regAddr a) v, State.begin_onBus_complete _ .unit s⟩

/-- Settles O13: one bus read, whose answer is returned. -/
theorem rregReturnsTheAnswer : Obligations.RregReturnsTheAnswer :=
  fun a s => ⟨_, _, rfl, s.bus.read_performed s.params (regAddr a), State.begin_onBus_complete _ (.byte _) s⟩

/-- Settles O14: the selector's row of the decoder, and the bus operation `setBits`. -/
theorem setbitsReadsThenWritesTheOr : Obligations.SetbitsReadsThenWritesTheOr := by
  refine ⟨fun P a m tail => rfl, fun a m s => ?_⟩
  obtain ⟨v, hp⟩ := s.bus.setBits_performed s.params (regAddr a) m
  exact ⟨v, _, rfl, hp, State.begin_onBus_complete _ .unit s⟩

/-- Settles O15: the selector's row of the decoder, and the bus operation `clearBits`. -/
theorem clrbitsReadsThenWritesTheAndNot : Obligations.ClrbitsReadsThenWritesTheAndNot := by
  refine ⟨fun P a m tail => rfl, fun a m s => ?_⟩
  obtain ⟨v, hp⟩ := s.bus.clearBits_performed s.params (regAddr a) m
  exact ⟨v, _, rfl, hp, State.begin_onBus_complete _ .unit s⟩

/-- Settles O16: `antennaOn()` on the bus, by `Bus.antennaOn_performed` on either path, and then the record. -/
theorem antonSetsTheAntennaBits : Obligations.AntonSetsTheAntennaBits := by
  intro s
  obtain ⟨ts, hrun, hp⟩ := s.bus.antennaOn_performed s.params
  have hafter := State.begin_onBus_complete (Bus.antennaOn s.params) .unit s
  exact ⟨ts, _, rfl, hrun, hp, congrArg (State.setAntennaOn true) hafter⟩

/-- Settles O17: the bus operation `clearBits` on `TxControl`, and then the record and the phase. -/
theorem antoffClearsTheAntennaBits : Obligations.AntoffClearsTheAntennaBits := by
  intro s
  obtain ⟨v, hp⟩ := s.bus.clearBits_performed s.params s.params.reg.txControl Mask.antenna
  have hafter := State.begin_onBus_complete (Bus.clearBits s.params s.params.reg.txControl Mask.antenna) .unit s
  exact ⟨v, _, rfl, hp, congrArg (fun u => (u.setAntennaOn false).setPhase .idle) hafter⟩

end Sys2Proof.Machine
end

section
/-! SUPPORT. The CRCEngine (41_crc_engine.md R141 to R147): CRC is `calculateCrc` between an operation's start and end,
its poll is the poll of the bus, and a chip law of two CRCs speaks of the pairs they return. -/

namespace Sys2Proof.Machine

/-- Settles O19: the rule of the bus operation `poll`, begun with the last answer 0x00 (R143). -/
theorem pollEndsAtTheFirstExitBit : Obligations.PollEndsAtTheFirstExitBit :=
  fun P a mask budget b => b.poll_performed P a mask budget 0x00

/-- Settles O18: the length check succeeds, and `calculateCrc` leaves the bus and the mark of an exhausted poll. -/
theorem crcDrivesTheCoprocessor : Obligations.CrcDrivesTheCoprocessor := by
  intro d s hd
  obtain ⟨ts, b, lo, hi, seen, hrun, hp, hcrc⟩ := s.begin.calculateCrc_spec d
  have hexec : exec (.crc d) s =
      .next (((s.begin.onBus fun _ => b).complete (.crcPair lo hi)).markCrcTimeout !seen) := by
    rw [exec, execCrc, if_pos ((frameLengthOk_iff s.params d).mpr hd), hcrc]
    rfl
  have hafter := State.begin_onBus_complete (fun _ => b) (.crcPair lo hi) s
  exact ⟨ts, lo, hi, seen, _, hexec, hrun, hp, congrArg (State.markCrcTimeout !seen) hafter⟩

/-- Settles O20: each run returns its pair by O18; `CRC_A_LAW` says which pair, `CRC_DET` that they are equal. -/
theorem crcUnderItsChipLawsReturnsTheSamePair : Obligations.CrcUnderItsChipLawsReturnsTheSamePair := by
  intro d s s' hd hd'
  obtain ⟨ts, lo, hi, seen, t, hexec, hrun, hp, ht⟩ := crcDrivesTheCoprocessor d s hd
  obtain ⟨ts', lo', hi', seen', t', hexec', hrun', hp', ht'⟩ := crcDrivesTheCoprocessor d s' hd'
  have hres : t.results = s.results ++ [.crcPair lo hi] := congrArg State.results ht
  have hres' : t'.results = s'.results ++ [.crcPair lo' hi'] := congrArg State.results ht'
  refine ⟨ts, lo, hi, seen, t, ts', lo', hi', seen', t', hexec, hrun, hp, hexec', hrun', hp', hres, hres', ?_, ?_⟩
  · intro mode mode' hlaws hlaws' hpreset hpreset' honly honly' hseen hseen' hcrcA hcrcA'
    obtain ⟨rfl, rfl⟩ := hcrcA hlaws hpreset honly hseen
    obtain ⟨rfl, rfl⟩ := hcrcA' hlaws' hpreset' honly' hseen'
    exact ⟨hres, hres'⟩
  · intro between htrace hlaws hlaws' hmode hseen hseen' hdet
    obtain ⟨rfl, rfl⟩ := Prod.mk.inj (hdet hlaws hlaws' ⟨between, htrace, hmode⟩ rfl hseen hseen')
    exact ⟨.crcPair lo hi, hres, hres'⟩

end Sys2Proof.Machine
end

section
/-! SUPPORT. The Transceiver (42_transceiver.md R161 to R172): how an exchange can end, said once (`ExchangeOutcome`), and
from this what every result satisfies and what the chip laws of R172 make of TRANSCEIVE and AUTH. -/

namespace Sys2Proof.Machine

/-! ### The bit length -/

/-- Clamped at 0, the integer of R167 is a natural number. -/
theorem coe_bitLengthOf (lvl vb : Nat) : (bitLengthOf lvl vb : Int) =
    min (max (if vb ≠ 0 then ((lvl : Int) - 1) * 8 + vb else (lvl : Int) * 8) 0) 128 :=
  Int.toNat_of_nonneg (le_min (le_max_right _ 0) (by decide))

/-- Settles O23: the formula is `coe_bitLengthOf`, and the rule's values are computed. -/
theorem bitLengthFormula : Obligations.BitLengthFormula :=
  ⟨fun lvl vb _ _ => coe_bitLengthOf lvl vb, by decide⟩

/-! ### How an exchange ends -/

/-- The bytes of a result are as many as hold its bits, which are at most 128, and `MFAuthent` returns none (R167 to
R169). -/
structure ResponseFits (cmd : ExchangeCommand) (r : TransceiveResult) : Prop where
  bits : r.bitLength ≤ 128
  length : r.data.length = (r.bitLength + 7) / 8
  auth : cmd = .mfAuthent → r.data = []

theorem responseFits_of_empty (cmd : ExchangeCommand) (status : Status) :
    ResponseFits cmd { status := status, data := [], bitLength := 0 } :=
  ⟨Nat.zero_le _, by simp, fun _ => rfl⟩

/-- What decides the result of an exchange (R165): it fails after a poll of no exit bit or with an error bit in an answer
of `Error`; in any other case the last answer of its poll gives the status, and the response fits. -/
inductive ExchangeOutcome (P : Params) (cmd : ExchangeCommand) (polls : List Byte) (ts : List Transaction)
    (r : TransceiveResult) : Prop where
  | exhausted (hr : r = TransceiveResult.failed) (hpolls : ∀ v ∈ polls, v &&& exitBits P cmd = 0)
  | error (hr : r = TransceiveResult.failed) (e : Byte) (he : Transaction.read P.reg.error e ∈ ts)
      (hbit : e &&& P.mask.err ≠ 0)
  | answered (hr : r.status = observedStatus P (polls.getLastD 0)) (hfits : ResponseFits cmd r)

section
variable {P : Params} {cmd : ExchangeCommand} {polls : List Byte} {ts : List Transaction} {r : TransceiveResult}

/-- After an observed poll the branches are those of steps 11 to 13 of R161. -/
theorem ExchangeEnd.outcome (h : ExchangeEnd P cmd true (polls.getLastD 0) ts r) : ExchangeOutcome P cmd polls ts r := by
  obtain ⟨e, h⟩ := h
  split at h
  next hbit =>
    obtain ⟨rfl, rfl⟩ := h
    exact .error rfl e List.mem_cons_self hbit
  split at h
  next hdrain =>
    obtain ⟨l, c, data, rfl, hstatus, rfl, hbits, hlt, hle⟩ := h
    refine .answered hstatus ⟨hbits ▸ bitLengthSpec_le _ _, by omega, fun hauth => ?_⟩
    cases hauth.symm.trans hdrain.1
  next =>
    obtain ⟨rfl, rfl⟩ := h
    exact .answered rfl (responseFits_of_empty cmd _)

theorem ExchangeOutcome.mono {us : List Transaction} (h : ExchangeOutcome P cmd polls ts r) (hsub : ts ⊆ us) :
    ExchangeOutcome P cmd polls us r := by
  cases h with
  | exhausted hr hpolls => exact .exhausted hr hpolls
  | error hr e he hbit => exact .error hr e (hsub he) hbit
  | answered hr hfits => exact .answered hr hfits

theorem ExchangeRunWith.outcome {d : List Byte} (h : ExchangeRunWith P cmd d polls ts r) :
    ExchangeOutcome P cmd polls ts r := by
  obtain ⟨v0, v1, v3, start, tail, seen, -, -, hpoll, hend, rfl⟩ := h
  cases seen with
  | true => exact hend.outcome.mono (List.subset_append_right _ _)
  | false => exact .exhausted hend.2 (hpoll.2 rfl).2

theorem ExchangeOutcome.responseFits (h : ExchangeOutcome P cmd polls ts r) : ResponseFits cmd r := by
  cases h with
  | exhausted hr => exact hr ▸ responseFits_of_empty cmd .err
  | error hr => exact hr ▸ responseFits_of_empty cmd .err
  | answered _ hfits => exact hfits

/-- An answered exchange is `Ok` or `NoTag` (R165 (c), (d)). -/
theorem observedStatus_ne_err (irq : Byte) : observedStatus P irq ≠ .err := by
  unfold observedStatus
  split <;> exact nofun

theorem ExchangeOutcome.eq_failed_of_err (h : ExchangeOutcome P cmd polls ts r) (herr : r.status = .err) :
    r = TransceiveResult.failed := by
  cases h with
  | exhausted hr => exact hr
  | error hr => exact hr
  | answered hr => exact absurd (hr.symm.trans herr) (observedStatus_ne_err _)

/-- The timer's flag in the last answer of the poll makes an exchange `NoTag` unless it fails. -/
theorem ExchangeOutcome.status_of_timer {v : Byte} (h : ExchangeOutcome P cmd polls ts r) (hlast : polls.getLast? = some v)
    (htimer : v &&& P.mask.timerIrq ≠ 0) : r.status = .err ∨ r.status = .noTag := by
  cases h with
  | exhausted hr => exact .inl (hr ▸ rfl)
  | error hr => exact .inl (hr ▸ rfl)
  | answered hr =>
    rw [List.getLastD_eq_getLast?, hlast, Option.getD_some, observedStatus_eq, if_pos htimer] at hr
    exact .inr hr

/-- With an exit bit in its poll and no error bit an exchange does not fail. -/
theorem ExchangeOutcome.ne_err (h : ExchangeOutcome P cmd polls ts r) (hexit : ∃ v ∈ polls, v &&& exitBits P cmd ≠ 0)
    (herror : ∀ e, Transaction.read P.reg.error e ∈ ts → e &&& P.mask.err = 0) : r.status ≠ .err := by
  cases h with
  | exhausted _ hpolls =>
    obtain ⟨v, hv, hbit⟩ := hexit
    exact absurd (hpolls v hv) hbit
  | error _ e he hbit => exact absurd (herror e he) hbit
  | answered hr => exact hr ▸ observedStatus_ne_err _

end

/-- Settles O22: any answers of the chip make a run of the exchange, and its outcome gives a response that fits. -/
theorem exchangeResultInvariants : Obligations.ExchangeResultInvariants := by
  intro P cmd d b
  obtain ⟨ts, ⟨polls, hrun⟩, -⟩ := b.pcdExchange_performed P cmd d
  obtain ⟨hbits, hlength, hauth⟩ := hrun.outcome.responseFits
  refine ⟨by omega, hbits, hlength, fun herr => ?_, hauth⟩
  rw [hrun.outcome.eq_failed_of_err herr]
  exact ⟨rfl, rfl⟩

/-! ### TRANSCEIVE -/

/-- Settles O21: the length check succeeds, and `pcdExchange` leaves all but the bus. -/
theorem transceiveRunsTheExchange : Obligations.TransceiveRunsTheExchange := by
  intro d s hd
  obtain ⟨ts, b, r, hrun, hp, hx⟩ := s.begin.pcdExchange_spec .transceive d
  have hexec : exec (.transceive d) s = .next ((s.begin.onBus fun _ => b).complete (.transceive r)) := by
    rw [exec, execTransceive, if_pos ((frameLengthOk_iff s.params d).mpr hd), hx]
    rfl
  exact ⟨ts, r, _, hexec, hrun, hp, State.begin_onBus_complete (fun _ => b) (.transceive r) s⟩

/-- Settles O24: each law gives an exit bit in the run of O21, so the exchange does not fail, and `NO_CARD_TIMER` the
timer's flag in the last answer too. -/
theorem transceiveUnderChipLaws : Obligations.TransceiveUnderChipLaws := by
  intro d s hd
  obtain ⟨ts, r, t, hexec, ⟨polls, hrun⟩, hp, ht⟩ := transceiveRunsTheExchange d s hd
  refine ⟨polls, ts, r, t, hexec, hrun, hp, ht, fun hlaws herror => ⟨fun hends => ?_, fun w hcard htook honly hlaw => ?_⟩⟩
  · exact hrun.outcome.ne_err (hends hlaws) herror
  · obtain ⟨v, hlast, hexit, htimer, -⟩ := hlaw hlaws hcard htook honly
    have hne : r.status ≠ .err := hrun.outcome.ne_err ⟨v, List.mem_of_getLast? hlast, hexit⟩ herror
    exact (hrun.outcome.status_of_timer hlast htimer).resolve_left hne

/-! ### AUTH -/

/-- The frame takes no more of a key than its 6 bytes, so all of one that has that length (R205). -/
theorem authFrame_of_length (mode blk : Byte) {key : List Byte} (hkey : key.length = 6) (uid : List Byte) :
    authFrame mode blk key uid = [mode, blk] ++ key ++ uid.take 4 := by
  rw [authFrame, List.take_of_length_le (show key.length ≤ keyLen from hkey.le)]
  rfl

/-- AUTH (43_protocol.md R205, R206): the exchange and the read of `Status2`, whose answers decide what is left. -/
theorem exec_auth_spec {mode blk : Byte} {key uid : List Byte} (s : State) (hkey : key.length = 6)
    (huid : 4 ≤ uid.length) :
    ∃ xch r s2 t, exec (.auth mode blk key uid) s = .next t ∧
      ExchangeRun s.params .mfAuthent ([mode, blk] ++ key ++ uid.take 4) xch r ∧
      Performed s.params s.bus (xch ++ [.read s.params.reg.status2 s2]) t.bus ∧
      if r.status = .ok ∧ s2 &&& s.params.mask.crypto1On ≠ 0 then
        t = { s.after t.bus .authOk false with authenticated := true, phase := .authenticated }
      else t = s.after t.bus .authenticationError false := by
  obtain ⟨xch, b, r, hrun, hp, hx⟩ := s.begin.pcdExchange_spec .mfAuthent (authFrame mode blk key uid)
  rw [authFrame_of_length mode blk hkey] at hrun
  have hbus := hp.append (b.read_performed s.params s.params.reg.status2)
  have hafter (res : Result) := State.begin_onBus_complete (fun _ => (b.read s.params s.params.reg.status2).2) res s
  have hexec : exec (.auth mode blk key uid) s = _ :=
    congrArg Host.Outcome.next (if_pos ((authLengthsOk_iff key uid).mpr ⟨hkey, huid⟩))
  rw [hx] at hexec
  by_cases hok : r.status = .ok ∧ (b.read s.params s.params.reg.status2).1 &&& s.params.mask.crypto1On ≠ 0
  · refine ⟨xch, r, _, _, hexec.trans (congrArg _ (if_pos ((authOk_iff _ _ _).mpr hok))), hrun, hbus, ?_⟩
    rw [if_pos hok]
    exact congrArg (fun u => (u.setAuthenticated true).setPhase .authenticated) (hafter .authOk)
  · refine ⟨xch, r, _, _, hexec.trans (congrArg _ (if_neg fun h => hok ((authOk_iff _ _ _).mp h))), hrun, hbus, ?_⟩
    rw [if_neg hok]
    exact hafter .authenticationError

/-- Settles O57: by the timer's flag the exchange is not `Ok`, and then AUTH fails whatever `Status2` answers. -/
theorem authUnderNoCardTimer : Obligations.AuthUnderNoCardTimer := by
  intro mode blk key uid s hkey huid
  obtain ⟨xch, r, s2, t, hexec, ⟨polls, hrun⟩, hp, ht⟩ := exec_auth_spec (mode := mode) (blk := blk) s hkey huid
  refine ⟨polls, xch, r, s2, t, hexec, hrun, hp, fun w hcard htook hlaws honly hlaw => ?_⟩
  obtain ⟨v, hlast, -, htimer, -⟩ := hlaw hlaws hcard htook honly
  have hne : r.status ≠ .ok := by
    obtain h | h := hrun.outcome.status_of_timer hlast htimer <;> simp [h]
  rw [if_neg fun h => hne h.1] at ht
  exact ⟨hne, ht⟩

end Sys2Proof.Machine
end

section
/-! SUPPORT. The ProtocolLayer (43_protocol.md R190 to R225): each operation is its shared procedure (`request`,
`anticoll`, a frame with its CRC) between an operation's start and end, and the length of a response follows from its
number of bits (`ResponseFits`). -/

namespace Sys2Proof.Machine

/-! ### STOPCRYPTO and INIT -/

/-- Settles O29: the selector's row of the decoder, and the bus operation `clearBits` on `Status2`; then the record and
the phase. -/
theorem stopcryptoEndsTheSession : Obligations.StopcryptoEndsTheSession := by
  refine ⟨fun P tail => rfl, fun s => ?_⟩
  obtain ⟨v, hp⟩ := s.bus.clearBits_performed s.params s.params.reg.status2 s.params.mask.crypto1On
  have hafter := State.begin_onBus_complete (Bus.clearBits s.params s.params.reg.status2 s.params.mask.crypto1On) .unit s
  refine ⟨v, _, rfl, hp, ?_⟩
  rw [← stopCryptoPhase_eq]
  exact congrArg (fun u => (u.setAuthenticated false).setPhase (stopCryptoPhase s.phase)) hafter

/-- Settles O34: INIT's transactions by `exec_run`; the fields written are no others. -/
theorem initResetsTheSession : Obligations.InitResetsTheSession := by
  intro s
  obtain ⟨ts, hp, ant, hant, rfl⟩ := exec_run (i := .init) (s := s) rfl rfl
  exact ⟨ant, _, rfl, hant, hp, rfl⟩

/-! ### The bytes of a response -/

section
variable {P : Params} {cmd : ExchangeCommand} {d : List Byte} {us : List Transaction} {r : TransceiveResult}

theorem ExchangeRun.responseFits (h : ExchangeRun P cmd d us r) : ResponseFits cmd r := by
  obtain ⟨polls, hrun⟩ := h
  exact hrun.outcome.responseFits

theorem RequestRun.responseFits {mode : Byte} (h : RequestRun P mode us r) : ResponseFits .transceive r := by
  obtain ⟨xch, hxch, -⟩ := h
  exact hxch.responseFits

theorem FrameRun.responseFits {seen : Bool} (h : FrameRun P d us r seen) : ResponseFits .transceive r := by
  obtain ⟨lo, hi, crc, xch, -, hxch, -⟩ := h
  exact hxch.responseFits

/-- 16 bits are two bytes (43_protocol.md R191). -/
theorem ResponseFits.length_of_atqa (h : ResponseFits cmd r) (hbits : r.bitLength = 16) : r.data.length = 2 := by
  rw [h.length, hbits]

/-- 24 bits are three bytes (R201). -/
theorem ResponseFits.data_of_sak (h : ResponseFits cmd r) (hbits : r.bitLength = 24) :
    ∃ sak c1 c2, r.data = [sak, c1, c2] := by
  have hlength : r.data.length = 3 := by rw [h.length, hbits]
  exact List.length_eq_three.mp hlength

/-- 4 bits are one byte, so the acknowledgement test is the spec's (R213). -/
theorem ResponseFits.ack_iff_acked (h : ResponseFits cmd r) : ack r = true ↔ Acked r := by
  rw [ack_iff, Acked, and_assoc]
  refine and_congr_right fun _ => and_congr_right fun hbits => ?_
  have hlength : r.data.length = 1 := by rw [h.length, hbits]
  obtain ⟨b, hb⟩ := List.length_eq_one_iff.mp hlength
  simp [hb]

end

/-! ### REQUEST, ANTICOLL and READUID -/

/-- Settles O25: `request` between start and end. -/
theorem requestSendsAShortFrame : Obligations.RequestSendsAShortFrame := by
  intro mode s
  obtain ⟨ts, r, b, hrun, hp, hreq⟩ := s.begin.request_spec mode
  have hafter (res : Result) := State.begin_onBus_complete (fun _ => b) res s
  by_cases hok : r.status = .ok ∧ r.bitLength = 16
  · have hexec : exec (.request mode) s = .next ((s.after b (.request .ok r.data) false).setPhase .requested) := by
      rw [exec, execRequest, hreq, if_pos hok, ← hafter]
      rfl
    refine ⟨ts, r, _, hexec, hrun, hp, ?_⟩
    rw [if_pos hok]
    exact ⟨hrun.responseFits.length_of_atqa hok.2, rfl⟩
  · have hexec : exec (.request mode) s = .next ((s.after b (.request .err []) false).setPhase .idle) := by
      rw [exec, execRequest, hreq, if_neg hok, ← hafter]
      rfl
    refine ⟨ts, r, _, hexec, hrun, hp, ?_⟩
    rw [if_neg hok]
    rfl

/-- Settles O26: `anticoll` between start and end. -/
theorem anticollReturnsAValidUid : Obligations.AnticollReturnsAValidUid := by
  intro s
  obtain ⟨ts, r, b, hrun, hp, hanti⟩ := s.begin.anticoll_spec
  have hafter (res : Result) := State.begin_onBus_complete (fun _ => b) res s
  cases hverdict : anticollVerdict r with
  | some u =>
    have hexec : exec .anticoll s = .next ((s.after b (.anticoll .ok (some u)) false).setPhase .collisionResolved) := by
      rw [exec, execAnticoll, hanti, hverdict, ← hafter]
      rfl
    exact ⟨ts, r, _, hexec, hrun, hp, by rw [hverdict]; rfl⟩
  | none =>
    have hexec : exec .anticoll s = .next ((s.after b (.anticoll .err none) false).setPhase .idle) := by
      rw [exec, execAnticoll, hanti, hverdict, ← hafter]
      rfl
    exact ⟨ts, r, _, hexec, hrun, hp, by rw [hverdict]; rfl⟩

/-- Settles O33: `request`, and where it succeeds `anticoll` from the state it leaves; one end. -/
theorem readuidIsRequestThenAnticoll : Obligations.ReaduidIsRequestThenAnticoll := by
  intro s
  obtain ⟨ts1, r1, b1, hrun1, hp1, hreq⟩ := s.begin.request_spec s.params.picc.reqidl
  by_cases hok : r1.status = .ok ∧ r1.bitLength = 16
  · obtain ⟨ts2, r2, b2, hrun2, hp2, hanti⟩ := State.anticoll_spec { s.begin with bus := b1, phase := .requested }
    have hafter (res : Result) := State.begin_onBus_complete (fun _ => b2) res s
    cases hverdict : anticollVerdict r2 with
    | some u =>
      have hexec : exec .readuid s = .next ((s.after b2 (.uid u) false).setPhase .collisionResolved) := by
        rw [exec, execReaduid, hreq, if_pos hok]
        dsimp only
        rw [hanti, hverdict, ← hafter]
        rfl
      refine ⟨ts1, r1, _, hexec, hrun1, ?_⟩
      rw [if_pos hok]
      exact ⟨ts2, r2, hrun2, hp1.append hp2, by rw [hverdict]; rfl⟩
    | none =>
      have hexec : exec .readuid s = .next ((s.after b2 .noCard false).setPhase .idle) := by
        rw [exec, execReaduid, hreq, if_pos hok]
        dsimp only
        rw [hanti, hverdict, ← hafter]
        rfl
      refine ⟨ts1, r1, _, hexec, hrun1, ?_⟩
      rw [if_pos hok]
      exact ⟨ts2, r2, hrun2, hp1.append hp2, by rw [hverdict]; rfl⟩
  · have hexec : exec .readuid s = .next ((s.after b1 .noCard false).setPhase .idle) := by
      rw [exec, execReaduid, hreq, if_neg hok, ← State.begin_onBus_complete (fun _ => b1)]
      rfl
    refine ⟨ts1, r1, _, hexec, hrun1, ?_⟩
    rw [if_neg hok]
    exact ⟨hp1, rfl⟩

/-! ### The UID checksum -/

/-- The verdict gives a UID exactly if it is the response's five bytes and its checksum validates. -/
theorem anticollVerdict_eq_some_iff {r : TransceiveResult} {u : Uid} : anticollVerdict r = some u ↔
    u.id0 ^^^ u.id1 ^^^ u.id2 ^^^ u.id3 = u.bcc ∧ r.data = [u.id0, u.id1, u.id2, u.id3, u.bcc] ∧ r.status = .ok := by
  obtain ⟨id0, id1, id2, id3, bcc⟩ := u
  unfold anticollVerdict
  split
  next b0 b1 b2 b3 b4 hstatus hdata =>
    rw [hstatus, hdata]
    grind
  next hno =>
    exact ⟨nofun, fun ⟨_, hdata, hstatus⟩ => (hno _ _ _ _ _ hstatus hdata).elim⟩

/-- A byte with one bit flipped is another byte. -/
theorem xor_twoPow_ne (x : Byte) {k : Nat} (hk : k < 8) : x ^^^ BitVec.twoPow 8 k ≠ x := by
  intro h
  have hbit := congrArg (·.getLsbD k) h
  simp [hk] at hbit

/-- Settles O35, by `anticollVerdict_eq_some_iff`; one flipped bit makes another byte of the checksum. -/
theorem checksumCatchesEverySingleBitError : Obligations.ChecksumCatchesEverySingleBitError := by
  simp only [Obligations.ChecksumCatchesEverySingleBitError, anticollUid_eq]
  refine ⟨fun b0 b1 b2 b3 bl => anticollVerdict_eq_some_iff.mpr ⟨rfl, rfl, rfl⟩, fun b0 b1 b2 b3 bl k hk => ?_,
    fun r u => anticollVerdict_eq_some_iff.mp⟩
  exact if_neg (xor_twoPow_ne _ hk).symm

/-! ### SELECT, READ, WRITE and HALT -/

/-- Settles O27: the length check succeeds, and a frame with its CRC between start and end. -/
theorem selectSendsTheUid : Obligations.SelectSendsTheUid := by
  intro b0 b1 b2 b3 b4 s
  obtain ⟨ts, b, r, seen, hrun, hp, hx⟩ := (s.begin.markHostDuty (uidBroken [b0, b1, b2, b3, b4])).exchangeWithCrc_spec
    (selectFrame s.params [b0, b1, b2, b3, b4])
  have hexec : exec (.select [b0, b1, b2, b3, b4]) s = _ := congrArg Host.Outcome.next (if_pos rfl)
  rw [hx] at hexec
  rw [← uidBroken_eq]
  by_cases hok : r.status = .ok ∧ r.bitLength = 24
  · obtain ⟨sak, c1, c2, hdata⟩ := hrun.responseFits.data_of_sak hok.2
    refine ⟨ts, r, seen, _, hexec.trans (congrArg _ (if_pos ((selectOk_iff r).mpr hok))), hrun, hp, ?_⟩
    rw [if_pos hok]
    exact ⟨sak, c1, c2, hdata, by rw [hdata]; rfl⟩
  · refine ⟨ts, r, seen, _, hexec.trans (congrArg _ (if_neg fun h => hok ((selectOk_iff r).mp h))), hrun, hp, ?_⟩
    rw [if_neg hok]
    rfl

/-- Settles O30: a frame with its CRC between start and end. -/
theorem readReturnsTheBlock : Obligations.ReadReturnsTheBlock := by
  intro blk s
  obtain ⟨ts, b, r, seen, hrun, hp, hx⟩ :=
    (s.begin.markHostDuty (!s.authenticated)).exchangeWithCrc_spec (readFrame s.params blk)
  have hexec : exec (.read blk) s = .next ((s.after b (if readOk r then .block r.data else .readError blk)
      (!s.authenticated)).markCrcTimeout !seen) := by
    rw [exec, execRead, hx]
    rfl
  simp only [readOk_iff] at hexec
  exact ⟨ts, r, seen, _, hexec, hrun, hp, rfl⟩

/-- Settles O31: the length check succeeds; phase 1 is a frame with its CRC, and where it is acknowledged phase 2
another, from the state phase 1 leaves. -/
theorem writeIsTwoAcknowledgedPhases : Obligations.WriteIsTwoAcknowledgedPhases := by
  intro blk d s hd
  replace hd := (writeLengthOk_iff d).mpr hd
  let u := s.begin.markHostDuty (!s.authenticated)
  obtain ⟨ts1, b1, r1, seen1, hrun1, hp1, hx1⟩ := u.exchangeWithCrc_spec (writeFrame s.params blk)
  have hack1 := hrun1.responseFits.ack_iff_acked
  by_cases h1 : Acked r1
  · obtain ⟨ts2, b2, r2, seen2, hrun2, hp2, hx2⟩ := State.exchangeWithCrc_spec d
      { u with bus := b1, crcTimeout := u.crcTimeout || !seen1 }
    have hack2 := hrun2.responseFits.ack_iff_acked
    have hexec : exec (.write blk d) s =
        .next (((s.after b2 (if ack r2 then .unit else .writeError blk .two) (!s.authenticated)).markCrcTimeout
          !seen1).markCrcTimeout !seen2) := by
      rw [exec, execWrite, if_pos hd, hx1]
      dsimp only
      rw [if_pos (hack1.mpr h1), hx2]
      rfl
    refine ⟨ts1, r1, seen1, _, hexec, hrun1, .inr ⟨h1, ts2, r2, seen2, hrun2, hp1.append hp2, ?_⟩⟩
    by_cases h2 : Acked r2
    · exact .inl ⟨h2, by rw [if_pos (hack2.mpr h2)]; rfl⟩
    · exact .inr ⟨h2, by rw [if_neg fun h => h2 (hack2.mp h)]; rfl⟩
  · have hexec : exec (.write blk d) s =
        .next ((s.after b1 (.writeError blk .one) (!s.authenticated)).markCrcTimeout !seen1) := by
      rw [exec, execWrite, if_pos hd, hx1]
      exact congrArg Host.Outcome.next (if_neg fun h => h1 (hack1.mp h))
    exact ⟨ts1, r1, seen1, _, hexec, hrun1, .inl ⟨h1, hp1, rfl⟩⟩

/-- Settles O32: a frame with its CRC between start and end. -/
theorem haltReturnsTheStatus : Obligations.HaltReturnsTheStatus := by
  intro s
  obtain ⟨ts, b, r, seen, hrun, hp, hx⟩ := s.begin.exchangeWithCrc_spec (haltFrame s.params)
  have hexec : exec .halt s =
      .next (((s.after b (.haltStatus r.status) false).setPhase .halted).markCrcTimeout !seen) := by
    rw [exec, execHalt, hx, ← State.begin_onBus_complete (fun _ => b)]
    rfl
  exact ⟨ts, r, seen, _, hexec, hrun, hp, rfl⟩

/-! ### AUTH -/

/-- Settles O28, by `exec_auth_spec`. -/
theorem authConfirmsTheCryptoBit : Obligations.AuthConfirmsTheCryptoBit :=
  fun _ _ _ _ s hkey huid => exec_auth_spec s hkey huid

/-! ### HALT and READ under the chip laws -/

/-- `CRC_A` of the default halt header (41_crc_engine.md R146). -/
theorem crcA_halt : crcA [0x50, 0x00] = 0xCD57 := by decide +kernel

/-- Settles O36: the run of O32, whose CRC is the one the law speaks of. -/
theorem haltFrameUnderCrcALaw : Obligations.HaltFrameUnderCrcALaw := by
  rintro s h rfl
  obtain ⟨ts, r, seen, t, hexec, ⟨lo, hi, crc, xch, hcrc, hxch, rfl⟩, hp, -⟩ := haltReturnsTheStatus s
  refine ⟨lo, hi, seen, crc, xch, r, t, hexec, hcrc, hxch, hp, fun mode hlaw hlaws hpreset honly hseen => ?_⟩
  obtain ⟨rfl, rfl⟩ := hlaw hlaws hpreset honly hseen
  refine ⟨rfl, rfl, fun hdefault => ?_⟩
  rw [hdefault, crcA_halt]
  rfl

/-- A byte with a bit of a mask that two others cover, and none of the second, has one of the first. -/
theorem and_ne_zero_of_covered {x m a b : Byte} (hcover : m &&& ~~~(a ||| b) = 0) (hm : x &&& m ≠ 0)
    (hb : x &&& b = 0) : x &&& a ≠ 0 := by
  intro ha
  refine hm (BitVec.eq_of_getLsbD_eq fun i hi => ?_)
  have hcover : (m.getLsbD i && !(a.getLsbD i || b.getLsbD i)) = false := by
    simpa [hi] using congrArg (·.getLsbD i) hcover
  have ha : (x.getLsbD i && a.getLsbD i) = false := by simpa using congrArg (·.getLsbD i) ha
  have hb : (x.getLsbD i && b.getLsbD i) = false := by simpa using congrArg (·.getLsbD i) hb
  have hxm : (x.getLsbD i && m.getLsbD i) = false := by grind
  simpa using hxm

/-- An observed poll ends with an answer that has an exit bit (R143). -/
theorem PollRun.getLastD_exit {budget : Nat} {mask : Byte} {polls : List Byte} (h : PollRun budget mask polls true)
    (last : Byte) : polls.getLastD last &&& mask ≠ 0 := by
  obtain ⟨before, v, rfl, -, -, hv⟩ := h.1 rfl
  simpa using hv

section
variable {P : Params} {cmd : ExchangeCommand} {irq : Byte} {d polls : List Byte} {ts : List Transaction}
  {r : TransceiveResult}

/-- An exchange that is `Ok` ended with the timer's flag clear (42_transceiver.md R165). -/
theorem ExchangeOutcome.timer_clear_of_ok (h : ExchangeOutcome P cmd polls ts r) (hok : r.status = .ok) :
    polls.getLastD 0 &&& P.mask.timerIrq = 0 := by
  cases h with
  | exhausted hr => cases (hr ▸ hok : TransceiveResult.failed.status = .ok)
  | error hr => cases (hr ▸ hok : TransceiveResult.failed.status = .ok)
  | answered hr =>
    by_contra htimer
    rw [observedStatus_eq, if_pos htimer, hok] at hr
    cases hr

/-- After a receive indication an exchange that is `Ok` read the level and the valid bits, which give its bit length
(R166 to R168). -/
theorem ExchangeEnd.drained_of_ok (h : ExchangeEnd P .transceive true irq ts r) (hok : r.status = .ok)
    (hrx : irq &&& P.mask.rxInd ≠ 0) :
    ∃ l c, [.read P.reg.fifoLevel l, .read P.reg.control c] <:+: ts ∧
      r.bitLength = bitLengthSpec (l &&& P.mask.fifoLevel).toNat (c &&& 0x07).toNat := by
  obtain ⟨e, h⟩ := h
  split at h
  next =>
    obtain ⟨-, rfl⟩ := h
    cases hok
  rw [if_pos ⟨rfl, hrx⟩] at h
  obtain ⟨l, c, data, rfl, -, -, hbits, -⟩ := h
  exact ⟨l, c, ⟨[.read P.reg.error e], data.map (.read P.reg.fifoData), rfl⟩, hbits⟩

/-- Where every exit bit is a receive-indicating or a timer bit, an exchange that is `Ok` drained (R164, R168). -/
theorem ExchangeRun.drained_of_ok (hmask : P.mask.xcvExit &&& ~~~(P.mask.rxInd ||| P.mask.timerIrq) = 0)
    (h : ExchangeRun P .transceive d ts r) (hok : r.status = .ok) :
    ∃ l c, [.read P.reg.fifoLevel l, .read P.reg.control c] <:+: ts ∧
      r.bitLength = bitLengthSpec (l &&& P.mask.fifoLevel).toNat (c &&& 0x07).toNat := by
  obtain ⟨polls, hrun⟩ := h
  have htimer := hrun.outcome.timer_clear_of_ok hok
  obtain ⟨v0, v1, v3, start, tail, seen, -, -, hpoll, hend, rfl⟩ := hrun
  cases seen with
  | false =>
    obtain ⟨-, rfl⟩ := hend
    cases hok
  | true =>
    have hrx := and_ne_zero_of_covered hmask (hpoll.getLastD_exit 0) htimer
    obtain ⟨l, c, hreads, hbits⟩ := hend.drained_of_ok hok hrx
    exact ⟨l, c, hreads.trans (List.suffix_append _ _).isInfix, hbits⟩

end

/-- 16 or more whole bytes are clamped to 128 bits (R167). -/
theorem bitLengthSpec_of_block {n : Nat} (hn : 16 ≤ n) : bitLengthSpec n 0 = 128 := by
  unfold bitLengthSpec
  rw [if_pos rfl]
  omega

/-- Settles O37: the run of O30 drained, and by the law 128 bits, the first 16 bytes of what the card sent. -/
theorem readUnderFifoHonest : Obligations.ReadUnderFifoHonest := by
  intro blk s hmask
  obtain ⟨ts, r, seen, t, hexec, ⟨lo, hi, crc, xch, hcrc, hxch, rfl⟩, hp, ht⟩ := readReturnsTheBlock blk s
  refine ⟨crc, xch, r, t, lo, hi, seen, hexec, hcrc, hxch, hp, fun card hcard hok hlaws hhonest => ?_⟩
  obtain ⟨l, c, hreads, hbits⟩ := hxch.drained_of_ok hmask hok
  obtain ⟨hlevel, hvalid, hdata⟩ := hhonest l c hreads hlaws hok
  rw [hlevel, hvalid, bitLengthSpec_of_block hcard] at hbits
  have hlength : r.data.length = 16 := by rw [hxch.responseFits.length, hbits]
  rw [if_pos ⟨hok, hlength⟩, hdata, hlength] at ht
  exact congrArg State.results ht

end Sys2Proof.Machine
end

section
/-! SUPPORT. The exceptions (60_exceptions.md R251 to R257): every instruction goes on to a next state, a wrong length is
a refusal and nothing else, and `S.hostDuty` is set by exactly the accepted operations that break a precondition. -/

namespace Sys2Proof.Machine

/-- Settles O47: `exec_hostDuty` joins `dutyMarked` to the mark, which is `dutyBroken` of an accepted host operation and
false of a refused one and of every other form. -/
theorem hostDutyMarksBrokenPreconditions : Obligations.HostDutyMarksBrokenPreconditions := by
  intro i s t h
  have hduty := exec_hostDuty h
  refine ⟨fun hp haccepted => ?_, fun hleft => ?_⟩
  · rwa [dutyMarked_of_refusalOf_none hp haccepted] at hduty
  · have hunmarked : dutyMarked i s = false := by
      rcases hleft with hp | hrefused
      · simp [dutyMarked, hp]
      · obtain ⟨e, he⟩ := Option.ne_none_iff_exists'.mp hrefused
        exact dutyMarked_of_refusalOf_some he
    rwa [hunmarked, Bool.or_false] at hduty

/-- Settles O8: no arm of `exec` ends in a fault or a refusal (R251, R252, R257). -/
theorem everyInstructionAnswersANextState : Obligations.EveryInstructionAnswersANextState := exec_next

/-- Settles O38: a length the operation does not admit gives `refusalOf` its reason, and such an operation is refused. -/
theorem wrongLengthsAreRefused : Obligations.WrongLengthsAreRefused :=
  ⟨fun _ _ hlong => exec_of_refusalOf_some (if_pos hlong),
    fun _ _ hlong => exec_of_refusalOf_some (if_pos hlong),
    fun _ _ hlength => exec_of_refusalOf_some (if_pos hlength),
    fun _ _ _ _ _ hlengths => exec_of_refusalOf_some (if_pos hlengths),
    fun _ _ _ hlength => exec_of_refusalOf_some (if_pos hlength)⟩

end Sys2Proof.Machine
end

section
/-! SUPPORT. The hazard of framing that persists (70_reset_and_hazards.md R290): an exchange and a CRC write
`BitFraming` only straight after reading it, and only its `StartSend` bit anew. -/

namespace Sys2Proof.Machine

/-! ### Writes that change only some bits of what was read -/

/-- Every write to the register `a` among these transactions comes straight after a read of it, and differs from the
answer at most in the bits of `m`. -/
def ChangesOnly (a : RegAddr) (m : Byte) (ts : List Transaction) : Prop :=
  ∀ v, Transaction.write a v ∈ ts → ∃ w, [.read a w, .write a v] <:+: ts ∧ v &&& ~~~m = w &&& ~~~m

section
variable {a : RegAddr} {m : Byte} {ts us : List Transaction}

theorem changesOnly_of_not_written (h : ∀ v, Transaction.write a v ∉ ts) : ChangesOnly a m ts :=
  fun v hv => absurd hv (h v)

theorem ChangesOnly.append (ht : ChangesOnly a m ts) (hu : ChangesOnly a m us) : ChangesOnly a m (ts ++ us) := by
  intro v hv
  obtain hv | hv := List.mem_append.mp hv
  · obtain ⟨w, hpair, hbits⟩ := ht v hv
    exact ⟨w, hpair.trans (List.prefix_append ts us).isInfix, hbits⟩
  · obtain ⟨w, hpair, hbits⟩ := hu v hv
    exact ⟨w, hpair.trans (List.suffix_append ts us).isInfix, hbits⟩

/-- A read of `a` and a write of it straight after. -/
theorem changesOnly_read_write {v w : Byte} (hbits : v &&& ~~~m = w &&& ~~~m) :
    ChangesOnly a m [.read a w, .write a v] := by
  intro x hx
  obtain rfl : x = v := by simpa using hx
  exact ⟨w, List.infix_rfl, hbits⟩

theorem changesOnly_setRun (v : Byte) : ChangesOnly a m (setRun a m v) :=
  changesOnly_read_write (by ext k; cases hm : m[k] <;> simp [hm])

theorem changesOnly_clearRun (v : Byte) : ChangesOnly a m (clearRun a m v) :=
  changesOnly_read_write (by rw [xor_ff, BitVec.and_assoc, BitVec.and_self])

end

/-! ### The framing -/

section
variable {P : Params} {ts : List Transaction}

/-- After its poll an exchange only reads (42_transceiver.md R161 steps 10 to 13). -/
theorem ExchangeEnd.not_written {cmd : ExchangeCommand} {seen : Bool} {irq : Byte} {r : TransceiveResult}
    (h : ExchangeEnd P cmd seen irq ts r) (a : RegAddr) (v : Byte) : Transaction.write a v ∉ ts := by
  unfold ExchangeEnd at h
  split at h
  · simp [h.1]
  obtain ⟨e, h⟩ := h
  split at h
  · simp [h.1]
  split at h
  · obtain ⟨l, c, data, rfl, -⟩ := h
    simp
  · simp [h.1]

variable (hP : P.legal = true)
include hP

/-- Where the registers differ (10_state.md R30), `BitFraming` is none of those listed before it. -/
theorem bitFraming_ne {a : RegAddr} (ha : a ∈ P.reg.addresses.take 12) : P.reg.bitFraming ≠ a := by
  obtain ⟨hregs, -⟩ := P.legal_iff.mp hP
  rintro rfl
  exact List.disjoint_take_drop hregs le_rfl ha List.mem_cons_self

/-- A CRC does not write `BitFraming` (41_crc_engine.md R141). -/
theorem CrcRun.changesOnly_startSend {d : List Byte} {lo hi : Byte} {seen : Bool} (h : CrcRun P d ts lo hi seen) :
    ChangesOnly P.reg.bitFraming P.mask.startSend ts := by
  obtain ⟨v0, v1, polls, -, rfl⟩ := h
  have hirq : P.reg.bitFraming ≠ P.reg.divIrq := bitFraming_ne hP (by simp [RegMap.addresses])
  have hlevel : P.reg.bitFraming ≠ P.reg.fifoLevel := bitFraming_ne hP (by simp [RegMap.addresses])
  have hdata : P.reg.bitFraming ≠ P.reg.fifoData := bitFraming_ne hP (by simp [RegMap.addresses])
  have hcommand : P.reg.bitFraming ≠ P.reg.command := bitFraming_ne hP (by simp [RegMap.addresses])
  exact changesOnly_of_not_written (by simp [clearRun, setRun, hirq, hlevel, hdata.symm, hcommand])

/-- An exchange writes `BitFraming` in its steps 7 and 9 alone, and only `StartSend` anew (42_transceiver.md R161). -/
theorem ExchangeRun.changesOnly_startSend {cmd : ExchangeCommand} {d : List Byte} {r : TransceiveResult}
    (h : ExchangeRun P cmd d ts r) : ChangesOnly P.reg.bitFraming P.mask.startSend ts := by
  obtain ⟨polls, v0, v1, v3, start, tail, seen, hxcv, hauth, -, hend, rfl⟩ := h
  have hen : P.reg.bitFraming ≠ P.reg.comIEn := bitFraming_ne hP (by simp [RegMap.addresses])
  have hirq : P.reg.bitFraming ≠ P.reg.comIrq := bitFraming_ne hP (by simp [RegMap.addresses])
  have hlevel : P.reg.bitFraming ≠ P.reg.fifoLevel := bitFraming_ne hP (by simp [RegMap.addresses])
  have hdata : P.reg.bitFraming ≠ P.reg.fifoData := bitFraming_ne hP (by simp [RegMap.addresses])
  have hcommand : P.reg.bitFraming ≠ P.reg.command := bitFraming_ne hP (by simp [RegMap.addresses])
  have hstart : ChangesOnly P.reg.bitFraming P.mask.startSend start := by
    cases cmd with
    | transceive => obtain ⟨v2, rfl⟩ := hxcv rfl; exact changesOnly_setRun v2
    | mfAuthent => rw [hauth rfl]; exact changesOnly_of_not_written (by simp)
  have hpoll : ChangesOnly P.reg.bitFraming P.mask.startSend (polls.map (.read P.reg.comIrq)) :=
    changesOnly_of_not_written (by simp)
  have htail : ChangesOnly P.reg.bitFraming P.mask.startSend tail :=
    changesOnly_of_not_written (hend.not_written P.reg.bitFraming)
  refine (((ChangesOnly.append ?_ hstart).append hpoll).append (changesOnly_clearRun v3)).append htail
  exact changesOnly_of_not_written (by simp [clearRun, setRun, hen, hirq, hlevel, hdata.symm, hcommand])

theorem FrameRun.changesOnly_startSend {f : List Byte} {r : TransceiveResult} {seen : Bool}
    (h : FrameRun P f ts r seen) : ChangesOnly P.reg.bitFraming P.mask.startSend ts := by
  obtain ⟨lo, hi, crc, xch, hcrc, hxch, rfl⟩ := h
  exact (hcrc.changesOnly_startSend hP).append (hxch.changesOnly_startSend hP)

end

/-- Settles O52: each of the seven operations is made of CRCs and exchanges, and AUTH's read of `Status2`. -/
theorem otherExchangesKeepTheFraming : Obligations.OtherExchangesKeepTheFraming := by
  intro i s t ts hi hP h htrace
  obtain ⟨us, hp, hrun⟩ := exec_run_cases h
  obtain rfl : us = ts := List.append_cancel_left (hp.trace.symm.trans htrace)
  change ChangesOnly s.params.reg.bitFraming s.params.mask.startSend us
  obtain rfl | hrun := hrun
  · exact changesOnly_of_not_written (by simp)
  cases i with
  | crc => obtain ⟨lo, hi, seen, hcrc⟩ := hrun; exact hcrc.changesOnly_startSend hP
  | transceive => obtain ⟨r, hxch⟩ := hrun; exact hxch.changesOnly_startSend hP
  | select | read | halt => obtain ⟨r, seen, hframe⟩ := hrun; exact hframe.changesOnly_startSend hP
  | auth =>
    obtain ⟨xch, r, v, hxch, rfl⟩ := hrun
    exact (hxch.changesOnly_startSend hP).append (changesOnly_of_not_written (by simp))
  | write =>
    obtain ⟨first, r, seen, hframe, rfl | ⟨second, r', seen', hframe', rfl⟩⟩ := hrun
    · exact hframe.changesOnly_startSend hP
    · exact (hframe.changesOnly_startSend hP).append (hframe'.changesOnly_startSend hP)
  | _ => exact hi.elim

end Sys2Proof.Machine
end

section
/-! SUPPORT. The fresh instance (70_reset_and_hazards.md R280): its fields and parameters, and the engine's
invariant. -/

namespace Sys2Proof.Machine

/-- The default tables give each name a value of its own (10_state.md R30; 30_encoding.md R92, R94). -/
theorem legal_reset_params : State.reset.params.legal = true := by decide +kernel

/-- Settles O54: each field and each table is `State.reset`'s own, and the default tables are legal. -/
theorem resetIsTheFreshInstance : Obligations.ResetIsTheFreshInstance :=
  ⟨rfl, rfl, rfl, rfl, rfl, rfl, rfl, rfl, rfl, rfl, rfl, rfl, rfl, rfl, rfl, rfl, rfl, rfl, rfl, rfl,
    legal_reset_params⟩

/-- Settles O55: nothing was sent, counted or returned, so all but the tables' distinct values is empty. -/
theorem resetHasTheEngineInvariant : Obligations.ResetHasTheEngineInvariant where
  wire := rfl
  counted := rfl
  session := nofun
  uninitialised _ hcounted := absurd rfl hcounted
  refusals := ⟨nofun, nofun⟩
  parameters := legal_reset_params

end Sys2Proof.Machine
end
